-- ==== Sys2Proof/Syntax.lean ====
section
/-! DEFINITION. The commands of spec/opcode_table.json, one constructor a row, with their operand fields already
turned into names (spec/30_encoding.md R92 to R94). -/
namespace Sys2Proof

/-- The SEEDSEL field of CHECK and UPDATE (R94). -/
inductive SeedSel where
  /-- 0: the default seed of the command's direction. -/
  | direction
  /-- 1: the byte 0xA1. -/
  | a1
  /-- 2: the byte 0xA2. -/
  | a2
  /-- 3: the byte in the SEED register. -/
  | seedReg
deriving DecidableEq, Repr

/-- The T field of DECODE: the transport tag, a closed set of two variants (R93). -/
inductive Transport where
  /-- T = 0. -/
  | usb
  /-- T = 1. -/
  | bluetooth
deriving DecidableEq, Repr

/-- The three commands of command set version 1; no other exists (R3). -/
inductive Instr where
  /-- CHECK: validate the trailing CRC32 (R174). -/
  | check (sel : SeedSel)
  /-- UPDATE: stamp the trailing CRC32 (R175). -/
  | update (sel : SeedSel)
  /-- DECODE: unpack an input report (R140). -/
  | decode (t : Transport)
deriving DecidableEq, Repr

end Sys2Proof
end

