-- ==== Sys2Proof/Word.lean ====
section
/-! DEFINITION. The widths the spec gives its values: bytes of BUF, 16-bit report fields, 32-bit registers and
command words (spec/10_state.md R21, R25; spec/30_encoding.md R90). Bit 0 is the least significant bit (R10). -/
namespace Sys2Proof

/-- One byte of BUF, one report byte, the SEED register's field (R12, R21, R38). -/
abbrev Byte := BitVec 8

/-- A 16-bit field: LEN.LEN (R37) or a motion field before sign extension (R44). -/
abbrev Half := BitVec 16

/-- A 32-bit register, a command word, the CRC register (R25, R90, R170). -/
abbrev Word := BitVec 32

end Sys2Proof
end

