-- ==== Sys2Proof/Decode.lean ====
section
/-! DEFINITION. Decoding a command word and, after it, encoding one (spec/30_encoding.md R90 to R96, R99).
The command word is delivered by a 32-bit little-endian write to CMD (R66, R90), so its byte form is four bytes. -/
namespace Sys2Proof

/-- OP, bits 3:0 (R91). -/
abbrev opField (w : Word) : BitVec 4 := w.extractLsb' 0 4

/-- SEEDSEL, bits 5:4 (R91). -/
abbrev seedSelField (w : Word) : BitVec 2 := w.extractLsb' 4 2

/-- Reserved bits 7:6 (R91). -/
abbrev reservedLowField (w : Word) : BitVec 2 := w.extractLsb' 6 2

/-- T, bit 8 (R91). -/
abbrev transportField (w : Word) : BitVec 1 := w.extractLsb' 8 1

/-- Reserved bits 31:9 (R91). -/
abbrev reservedHighField (w : Word) : BitVec 23 := w.extractLsb' 9 23

/-- R94's reading of the two SEEDSEL bits. -/
def SeedSel.ofField (b : BitVec 2) : SeedSel :=
  if b = 0 then .direction else if b = 1 then .a1 else if b = 2 then .a2 else .seedReg

/-- R93's reading of the T bit. -/
def Transport.ofField (b : BitVec 1) : Transport :=
  if b = 0 then .usb else .bluetooth

/-- R95, line by line: the first pattern that matches decides, and a word that matches none is ILLEGAL (`none`). -/
def classify (w : Word) : Option Instr :=
  if w &&& 0xFFFFFFCF#32 = 0x00000001#32 then some (.check (.ofField (seedSelField w)))
  else if w &&& 0xFFFFFFCF#32 = 0x00000002#32 then some (.update (.ofField (seedSelField w)))
  else if w &&& 0xFFFFFEFF#32 = 0x00000003#32 then some (.decode (.ofField (transportField w)))
  else none

/-- Names for the ways R96 lists in which a word is illegal.  The block itself has one category, ILLEGAL. -/
inductive IllegalWord where
  /-- The byte form is not one 32-bit word (R90: there is no other length). -/
  | notOneWord
  /-- OP selects no command (R92). -/
  | opcode
  /-- A reserved bit is 1 (R91). -/
  | reservedBits
  /-- T = 1 on CHECK or UPDATE (R91). -/
  | transportOnChecker
  /-- SEEDSEL ≠ 0 on DECODE (R91). -/
  | seedSelOnDecode
deriving DecidableEq, Repr

/-- The check of a raw command word, field by field as R91 and R92 state it (the decoder above goes by masks):
`none` for a legal word, else the name of what R96 finds wrong with it. -/
def illegalWord (w : Word) : Option IllegalWord :=
  if reservedLowField w ≠ 0 ∨ reservedHighField w ≠ 0 then some .reservedBits
  else if opField w = 1 ∨ opField w = 2 then
    if transportField w ≠ 0 then some .transportOnChecker else none
  else if opField w = 3 then
    if seedSelField w ≠ 0 then some .seedSelOnDecode else none
  else some .opcode

/-- The word four bytes make on the little-endian host port (R66). -/
def wordOfBytes (b0 b1 b2 b3 : Byte) : Word :=
  b0.setWidth 32 ||| b1.setWidth 32 <<< 8 ||| b2.setWidth 32 <<< 16 ||| b3.setWidth 32 <<< 24

/-- Decoding of any sequence of bytes, rejecting by name. -/
def decodeBytes : List Byte → Except IllegalWord Instr
  | [b0, b1, b2, b3] =>
    match classify (wordOfBytes b0 b1 b2 b3) with
    | some i => .ok i
    | none => .error ((illegalWord (wordOfBytes b0 b1 b2 b3)).getD .opcode)
  | _ => .error .notOneWord

/-- The first `k` bytes of a number, least significant byte first (R66). -/
def bytesOfNat : Nat → Nat → List Byte
  | 0, _ => []
  | k + 1, w => BitVec.ofNat 8 w :: bytesOfNat k (w / 256)

/-- The decoder on an instruction given as the opcode table numbers its bits: `nbits` bits of `w`, the rest of the
32-bit word zero, laid out as four little-endian bytes. -/
def decodeTableWord (nbits w : Nat) : Option Instr :=
  match decodeBytes (bytesOfNat 4 (w % 2 ^ nbits)) with
  | .ok i => some i
  | .error _ => none

/-! ## The encoder, from the field table R91 -/

/-- The two SEEDSEL bits of R94. -/
def SeedSel.toField : SeedSel → BitVec 2
  | .direction => 0
  | .a1 => 1
  | .a2 => 2
  | .seedReg => 3

/-- The T bit of R93. -/
def Transport.toField : Transport → BitVec 1
  | .usb => 0
  | .bluetooth => 1

/-- A command word from its fields: OP in 3:0, SEEDSEL in 5:4, T in 8, every reserved bit 0 (R91). -/
def commandWord (op : BitVec 4) (sel : BitVec 2) (t : BitVec 1) : Word :=
  op.setWidth 32 ||| sel.setWidth 32 <<< 4 ||| t.setWidth 32 <<< 8

/-- The command word of an instruction (R91, R92); SEEDSEL is 0 for DECODE and T is 0 for CHECK and UPDATE. -/
def encode : Instr → Word
  | .check sel => commandWord 1 sel.toField 0
  | .update sel => commandWord 2 sel.toField 0
  | .decode t => commandWord 3 0 t.toField

end Sys2Proof
end

