-- ==== Sys2Proof/Config.lean ====
section
/-! DEFINITION. What an instance of the block fixes (spec/00_scope.md R6 to R8; spec/10_state.md R50 calls these
configuration, not state) and the one free value of the spec, `draw()` (R14). -/
namespace Sys2Proof

/-- How the seed byte enters the CRC register (R8).  The spec decides PREFIX_BYTE and names XOR_INIT as the only
alternative a model may keep open (D2 of spec/92_eei_decisions.md, U1 of spec/93_implementation_defined.md). -/
inductive CrcSeeding where
  /-- R171: the seed byte is folded first, from the register value 0xFFFFFFFF. -/
  | prefixByte
  /-- D2's named alternative: the register starts at 0xFFFFFFFF xor the seed, and no seed step is made. -/
  | xorInit
deriving DecidableEq, Repr

/-- The configuration of one block instance.  It is carried in the machine state so that every statement about a
state is a statement about every instance; no step changes it (assumption log 1). -/
structure Config where
  /-- BUF_CAP, the capacity of BUF in bytes (R6). -/
  bufCap : Nat
  /-- BLOCK_BASE, the bus address of the 512-byte aperture (R7). -/
  blockBase : Nat
  /-- CRC_SEEDING (R8). -/
  seeding : CrcSeeding
deriving DecidableEq, Repr

/-- The spec's reference instance: BUF_CAP = 128 (R6) and CRC_SEEDING = PREFIX_BYTE (R8).
DESIGN CHOICE: BLOCK_BASE = 0, the spec leaves it to the platform (R7; assumption log 2). -/
def Config.reference : Config := ⟨128, 0, .prefixByte⟩

/-- `draw()` of R14: the k-th value the model leaves free.  It has no body, so nothing can be proved of it; a read
made while the engine is busy takes its unspecified bits from it (R73; assumption log 3). -/
opaque Config.draw : Nat → Word

end Sys2Proof
end

