-- ==== Sys2Proof/Machine/Crc.lean ====
section
/-! DEFINITION. The CRC32 computation of the Integrity Checker (spec/41_crc.md R170, R171; the seeding parameter of
spec/00_scope.md R8). -/
namespace Sys2Proof.Machine

/-- The reflected polynomial (R9, R170). -/
def crcPolynomial : Word := 0xEDB88320

/-- One turn of R170's loop: shift right, and fold the polynomial in when the bit shifted out is 1. -/
def crcBit (c : Word) : Word :=
  if c.getLsbD 0 then (c >>> 1) ^^^ crcPolynomial else c >>> 1

/-- R170's loop body taken `k` times. -/
def crcBits : Nat → Word → Word
  | 0, c => c
  | k + 1, c => crcBits k (crcBit c)

/-- `crc_step(c, b)` of R170. -/
def crcStep (c : Word) (b : Byte) : Word := crcBits 8 (c ^^^ b.setWidth 32)

/-- The bytes folded into the register in order (R171). -/
def crcFold (c : Word) (data : List Byte) : Word := data.foldl crcStep c

/-- The register before the first data byte (R171; D2 for the named alternative). -/
def crcStart (k : CrcSeeding) (seed : Byte) : Word :=
  match k with
  | .prefixByte => crcStep 0xFFFFFFFF seed
  | .xorInit => 0xFFFFFFFF ^^^ seed.setWidth 32

/-- `crc32_seeded(s, data)` of R171: seed, fold, invert. -/
def crc32Seeded (k : CrcSeeding) (seed : Byte) (data : List Byte) : Word :=
  crcFold (crcStart k seed) data ^^^ 0xFFFFFFFF

end Sys2Proof.Machine
end

