-- ==== Sys2Proof/Machine/State.lean ====
section
/-! DEFINITION. The machine's state as plain data: the tuple of spec/10_state.md R22, the configuration (R50), and
the model's own fields for what stands outside the block (the host's accesses, the order of events, the host's
view).  INVENTORY.md lists every field with its rule and reset value. -/
namespace Sys2Proof.Machine

/-- BUF (R21) as (offset, byte) pairs in canonical form: offsets strictly rising and no pair holding the byte an
unlisted offset reads as (`Memory.wf` in Ops.lean). -/
abbrev Memory := List Host.Cell

/-- What an offset of BUF with no pair reads as.  DESIGN CHOICE: any contents of BUF can be listed, so this fixes
only how contents are written down, and the contents of `State.reset` (R232; assumption log 4). -/
def unlistedByte : Byte := 0

/-- The twelve report registers (R40 to R47), 32 bits each. -/
structure Report where
  sticks : Word
  trig : Word
  buttons : Word
  gyroX : Word
  gyroY : Word
  gyroZ : Word
  accelX : Word
  accelY : Word
  accelZ : Word
  timestamp : Word
  touch0 : Word
  touch1 : Word
deriving DecidableEq, Repr

/-- Every report register at 0x00000000, its reset value (R40, R231). -/
def Report.zero : Report := ⟨0, 0, 0, 0, 0, 0, 0, 0, 0, 0, 0, 0⟩

/-- The completion codes of R200 by name; their numbers stand in Ops.lean. -/
inductive ErrCode where
  | none
  | truncatedOrOversized
  | unexpectedReportId
  | checksumMismatch
  | illegalCommand
deriving DecidableEq, Repr

/-- The two agents that take steps (R20). -/
inductive Agent where
  | host
  | engine
deriving DecidableEq, Repr

/-- One host access at a bus address (R62; the offset is the address minus BLOCK_BASE): its width `n` in bytes may
be any number, since the port checks it (R64); a write delivers the low 8·n bits of `v`. -/
inductive Access where
  | read (addr n : Nat)
  | write (addr n : Nat) (v : Word)
deriving DecidableEq, Repr

/-- What the outside does next: an access, the `WAIT` loop of R100, or the reset input (R230).  The reset carries
the bytes BUF holds afterwards, which the spec leaves open (R232, R233; assumption log 5). -/
inductive Input where
  | access (a : Access)
  | wait
  | reset (contents : List Byte)
deriving DecidableEq, Repr

/-- What the port answers to one host access (R62): the value read, zero-extended to 32 bits, `ok`, or the bus
error response (R206). -/
inductive Response where
  | value (v : Word)
  | ok
  | busError
deriving DecidableEq, Repr

/-- The whole state.  `cfg` is configuration (R50).  From `buf` to `rpt` the fields are the tuple of R22.  The last
four are the model's own: `inputs`, the outside's events in arrival order (R75); `schedule`, who goes first each
time a host event and the engine step are both enabled (R209, R240); `responses`, the port's answers, newest first;
`draws`, how many free values reads have taken (R14). -/
structure State where
  cfg : Config
  buf : Memory
  len : Half
  seed : Byte
  crcResult : Word
  busy : Bool
  done : Bool
  crcOk : Bool
  reportValid : Bool
  ovr : Bool
  errcode : BitVec 4
  pending : Option Word
  rpt : Report
  inputs : List Input
  schedule : List Agent
  responses : List Response
  draws : Nat
deriving DecidableEq, Repr

/-- Why a step may stop.  Neither can happen in a state that meets `State.Inv` (Safety.lean): the block has no traps
(spec/60_exceptions.md). -/
inductive Fault where
  /-- Raised by the engine step in a state with busy = 1 and no pending word, which R22 rules out.  Safe: the model
  stops where the spec describes no machine. -/
  | commandMissing
  /-- Raised by a command about to address a byte at or beyond BUF_CAP, which R74 rules out for every allowed BUF_CAP.
  Safe: the model stops where the spec says no byte exists (R60). -/
  | outsideBuffer
deriving DecidableEq, Repr

/-- Why an instruction may have no meaning. -/
inductive Refusal where
  /-- Raised only by an arm of `exec` for an instruction not modelled yet; there is none.  Safe. -/
  | notModelled (mnemonic : String)
deriving DecidableEq, Repr

/-- The outcome of a meaning or a step. -/
abbrev Result := Host.Outcome State Fault Refusal

/-- The state right after reset of an instance `cfg` whose BUF holds `buf` (R231, R232: the contents of BUF are an
argument of reset). -/
def State.resetOf (cfg : Config) (buf : Memory) : State where
  cfg := cfg
  buf := buf
  len := 0
  seed := 0xA1
  crcResult := 0
  busy := false
  done := false
  crcOk := false
  reportValid := false
  ovr := false
  errcode := 0
  pending := none
  rpt := Report.zero
  inputs := []
  schedule := []
  responses := []
  draws := 0

/-- The reference instance right after reset, with nothing listed in BUF, no event waiting and nothing answered. -/
def State.reset : State := State.resetOf Config.reference []

end Sys2Proof.Machine
end

