-- ==== Sys2Proof/WellFormed.lean ====
section
/-! DEFINITION. Well-formedness: of an instance's configuration (spec/00_scope.md R6, R7) and of an instruction
(spec/30_encoding.md R93, R94).  The check of a raw command word stands in Decode.lean. -/
namespace Sys2Proof

/-- R6: 78 ≤ BUF_CAP ≤ 256 and BUF_CAP is a multiple of 4.  R7: BLOCK_BASE is a multiple of 0x200.
R8's two seedings are both allowed; the spec's block is the one with `prefixByte`. -/
def Config.wf (c : Config) : Bool :=
  decide (78 ≤ c.bufCap) && decide (c.bufCap ≤ 256) && decide (c.bufCap % 4 = 0) && decide (c.blockBase % 0x200 = 0)

/-- Every term of `Instr` is a command of the block: all four SEEDSEL values and both T values have a meaning
(R93, R94), and reserved bits have no place in a term. -/
def Instr.wf : Instr → Bool
  | .check _ => true
  | .update _ => true
  | .decode _ => true

end Sys2Proof
end

