-- ==== Sys2Proof/Machine/Ops.lean ====
section
/-! DEFINITION. The shared operations: BUF byte by byte and little-endian (spec/00_scope.md R12, R14;
spec/20_memory.md R66, R67, R74), issuing a command and completing one (spec/10_state.md R24;
spec/60_exceptions.md R203: completion stands in place of trap entry, and R204: there is no return), dropping a
write (R207), answering the host (R62) and the reset input (R230 to R233). -/
namespace Sys2Proof.Machine

/-! ## BUF -/

/-- `BUF[a]` (R12). -/
def Memory.read : Memory → Nat → Byte
  | [], _ => unlistedByte
  | (c, x) :: m, a => if c = a then x else Memory.read m a

/-- `BUF[a] <- b`, keeping the canonical form: writing the byte an unlisted offset reads as removes the pair. -/
def Memory.write : Memory → Nat → Byte → Memory
  | [], a, b => if b = unlistedByte then [] else [(a, b)]
  | (c, x) :: m, a, b =>
    if a < c then (if b = unlistedByte then (c, x) :: m else (a, b) :: (c, x) :: m)
    else if a = c then (if b = unlistedByte then m else (a, b) :: m)
    else (c, x) :: Memory.write m a b

/-- Offsets strictly rise from `lo` on, stay below `cap`, and no pair holds the byte unlisted offsets read as. -/
def Memory.wfFrom (cap : Nat) : Nat → Memory → Bool
  | _, [] => true
  | lo, (c, x) :: m => decide (lo ≤ c) && decide (c < cap) && decide (x ≠ unlistedByte) && Memory.wfFrom cap (c + 1) m

/-- The canonical form of BUF's contents for a capacity of `cap` bytes (R21: offsets 0 to BUF_CAP-1). -/
def Memory.wf (cap : Nat) (m : Memory) : Bool := Memory.wfFrom cap 0 m

/-- `MemRead(a, n)` of R14, the little-endian value of n ≤ 4 bytes, as a 32-bit word. -/
def memRead (m : Memory) : Nat → Nat → Word
  | _, 0 => 0
  | a, n + 1 => (m.read a).setWidth 32 ||| memRead m (a + 1) n <<< 8

/-- `MemWrite(a, n, v)` of R14: `BUF[a+k] <- v[8k+7:8k]` for k in 0..n-1. -/
def memWrite (m : Memory) : Nat → Nat → Word → Memory
  | _, 0, _ => m
  | a, n + 1, v => memWrite (m.write a (v.setWidth 8)) (a + 1) n (v >>> 8)

/-- `LE16(p)` of R12. -/
def le16 (m : Memory) (p : Nat) : Half := (memRead m p 2).setWidth 16

/-- `LE32(p)` of R12. -/
def le32 (m : Memory) (p : Nat) : Word := memRead m p 4

/-- The byte sequence `BUF[a..a+n)` of R12, in order of increasing offset. -/
def bytesFrom (m : Memory) : Nat → Nat → List Byte
  | _, 0 => []
  | a, n + 1 => m.read a :: bytesFrom m (a + 1) n

/-- The bytes `bs` laid over BUF from offset `a` on, as far as BUF reaches. -/
def overlay (cap : Nat) : Memory → Nat → List Byte → Memory
  | m, _, [] => m
  | m, a, b :: bs => if a < cap then overlay cap (m.write a b) (a + 1) bs else m

/-- `k`, on the ground that BUF has at least `n` bytes: a command says here how far it reaches into BUF (R74), and
one that reached past BUF_CAP would stop. -/
def State.withinBuffer (s : State) (n : Nat) (k : Result) : Result :=
  if n ≤ s.cfg.bufCap then k else .fault .outsideBuffer

/-! ## Commands -/

/-- An accepted write of `w` to CMD: `pending <- w`, `busy <- 1`, `done <- 0` (R24). -/
def State.issue (s : State) (w : Word) : State :=
  { s with pending := some w, busy := true, done := false }

/-- A host write dropped because the engine is busy: nothing but OVR <- 1 (R72, R207). -/
def State.dropWrite (s : State) : State := { s with ovr := true }

/-- The code of R200 as STATUS.ERRCODE holds it. -/
def ErrCode.code : ErrCode → BitVec 4
  | .none => 0
  | .truncatedOrOversized => 1
  | .unexpectedReportId => 2
  | .checksumMismatch => 3
  | .illegalCommand => 4

/-- `complete(e)` with CRC_OK written beside it: `pending <- none`, `busy <- 0`, `done <- 1`, ERRCODE and CRC_OK
(R24, R32, R35, R203).  It is the end of every engine step and the only thing the block has in place of a trap. -/
def State.complete (s : State) (e : ErrCode) (crcOk : Bool) : State :=
  { s with pending := none, busy := false, done := true, errcode := e.code, crcOk := crcOk }

/-- The completion of an illegal word: ERRCODE = 4, CRC_OK = 0, DONE = 1, BUSY = 0 and nothing else (R201). -/
def State.completeIllegal (s : State) : State := s.complete .illegalCommand false

/-! ## The outside -/

/-- The port answers `r` to the host (R62). -/
def State.respond (s : State) (r : Response) : State := { s with responses := r :: s.responses }

/-- The reset input, released: every register as R231 says, the command in flight abandoned (R233).  BUF is not
cleared (R232): its bytes are those the event carries, and where it carries none, as they were.  What stands outside
the block is as it was. -/
def State.resetInput (s : State) (contents : List Byte) : State :=
  { State.resetOf s.cfg (overlay s.cfg.bufCap s.buf 0 contents) with
    inputs := s.inputs, schedule := s.schedule, responses := s.responses, draws := s.draws }

end Sys2Proof.Machine
end

