-- ==== Sys2Proof/Machine/Operands.lean ====
section
/-! DEFINITION. Every operand form of the commands: the seed byte (spec/41_crc.md R172), the buffer length
(spec/10_state.md R37; spec/41_crc.md R173), what a transport carries (spec/30_encoding.md R110), and the assembly
of a report's fields (R113, R116; spec/40_decoder.md R144, R145). -/
namespace Sys2Proof.Machine

/-- The two directions with their default seeds, 0xA1 for check and 0xA2 for update (R9, R172, C5). -/
def checkSeed : Byte := 0xA1

/-- See `checkSeed`. -/
def updateSeed : Byte := 0xA2

/-- `seed_of(op, seedsel)` of R172, where `dflt` is the default of the operation's direction; SEEDSEL = 3 reads SEED
in the engine step. -/
def seedOf (dflt : Byte) (sel : SeedSel) (s : State) : Byte :=
  match sel with
  | .direction => dflt
  | .a1 => 0xA1
  | .a2 => 0xA2
  | .seedReg => s.seed

/-- `L = zext_32(LEN)` as a number (R173). -/
abbrev State.length (s : State) : Nat := s.len.toNat

/-- The length precondition of CHECK and UPDATE: 4 ≤ L ≤ BUF_CAP (R173). -/
def State.checkerLengthOk (s : State) : Bool := decide (4 ≤ s.length) && decide (s.length ≤ s.cfg.bufCap)

/-- Where the trailer begins: L - 4 (R115). -/
def State.trailerAt (s : State) : Nat := s.length - 4

/-- The total size of a transport's report (R110). -/
def transportSize : Transport → Nat
  | .usb => 64
  | .bluetooth => 78

/-- A transport's report ID, the value of BUF[0] (R110). -/
def transportReportId : Transport → Byte
  | .usb => 0x01
  | .bluetooth => 0x31

/-- How far DECODE reads into BUF: BUF[0..64) for both transports (R74, R140). -/
def decodeReach : Nat := 64

/-- `s16 at p`: the two's complement field, sign-extended to 32 bits (R13, R116, R144). -/
def s16At (m : Memory) (p : Nat) : Word := (le16 m p).signExtend 32

/-- Four 8-bit fields in one register, the first in bits 7:0 (R41 to R43). -/
def packBytes (b0 b1 b2 b3 : Byte) : Word :=
  b0.setWidth 32 ||| b1.setWidth 32 <<< 8 ||| b2.setWidth 32 <<< 16 ||| b3.setWidth 32 <<< 24

/-- `touch x`: byte1 | ((byte2 & 0x0F) << 8), 12 bits (R116, R145). -/
def touchX (byte1 byte2 : Byte) : BitVec 12 :=
  byte1.setWidth 12 ||| (byte2 &&& 0x0F#8).setWidth 12 <<< 8

/-- `touch y`: (byte2 >> 4) | (byte3 << 4), 12 bits (R116, R145). -/
def touchY (byte2 byte3 : Byte) : BitVec 12 :=
  (byte2 >>> 4).setWidth 12 ||| byte3.setWidth 12 <<< 4

/-- `touch(p)` of R145: CONTACT in 7:0, TX in 19:8, TY in 31:20 (R47). -/
def touchAt (m : Memory) (p : Nat) : Word :=
  (m.read p).setWidth 32 ||| (touchX (m.read (p + 1)) (m.read (p + 2))).setWidth 32 <<< 8
    ||| (touchY (m.read (p + 2)) (m.read (p + 3))).setWidth 32 <<< 20

end Sys2Proof.Machine
end

