-- ==== Sys2Proof/Machine/Checker.lean ====
section
/-! DEFINITION. The Integrity Checker: CHECK and UPDATE (spec/41_crc.md R172 to R175). -/
namespace Sys2Proof.Machine

/-- The CRC32 of the covered region `BUF[0..L-4)` with a seed byte (R171, R174, R175). -/
def State.coveredCrc (s : State) (seed : Byte) : Word :=
  crc32Seeded s.cfg.seeding seed (bytesFrom s.buf 0 s.trailerAt)

/-- CHECK on a length that passed: CRC_RESULT is written, and the verdict is the comparison with the trailer (R174). -/
def State.compareTrailer (s : State) (c : Word) : State :=
  let s' := { s with crcResult := c }
  if c = le32 s.buf s.trailerAt then s'.complete .none true else s'.complete .checksumMismatch false

/-- UPDATE on a length that passed: CRC_RESULT and the trailer `BUF[L-4..L)` are written (R175). -/
def State.stampTrailer (s : State) (c : Word) : State :=
  { s with crcResult := c, buf := memWrite s.buf s.trailerAt 4 c }.complete .none false

/-- CHECK (R174).  It reads `BUF[0..L)` (R74). -/
def execCheck (sel : SeedSel) (s : State) : Result :=
  if s.checkerLengthOk then
    s.withinBuffer s.length (.next (s.compareTrailer (s.coveredCrc (seedOf checkSeed sel s))))
  else .next (s.complete .truncatedOrOversized false)

/-- UPDATE (R175).  It reads `BUF[0..L-4)` and writes `BUF[L-4..L)` (R74). -/
def execUpdate (sel : SeedSel) (s : State) : Result :=
  if s.checkerLengthOk then
    s.withinBuffer s.length (.next (s.stampTrailer (s.coveredCrc (seedOf updateSeed sel s))))
  else .next (s.complete .truncatedOrOversized false)

end Sys2Proof.Machine
end

