-- ==== Sys2Proof/Machine/Decoder.lean ====
section
/-! DEFINITION. The Report Layout Decoder: DECODE (spec/40_decoder.md R140 to R148; the payload layout is
spec/30_encoding.md R111). -/
namespace Sys2Proof.Machine

/-- Every report register from its bytes (R111, R143). -/
def unpackReport (m : Memory) : Report where
  sticks := le32 m 1
  trig := packBytes (m.read 5) (m.read 6) (m.read 7) (m.read 53)
  buttons := le32 m 8
  gyroX := s16At m 16
  gyroY := s16At m 18
  gyroZ := s16At m 20
  accelX := s16At m 22
  accelY := s16At m 24
  accelZ := s16At m 26
  timestamp := le32 m 28
  touch0 := touchAt m 33
  touch1 := touchAt m 37

/-- A DECODE that fails: REPORT_VALID <- 0, the report registers stay (R33, R40, R140). -/
def State.decodeFails (s : State) (e : ErrCode) : State := { s with reportValid := false }.complete e false

/-- A DECODE that succeeds: all twelve registers and REPORT_VALID <- 1 in one step (R143). -/
def State.decodeSucceeds (s : State) : State :=
  { s with rpt := unpackReport s.buf, reportValid := true }.complete .none false

/-- DECODE (R140): the length first (R141), then the report ID (R142), then the fields (R143). -/
def execDecode (t : Transport) (s : State) : Result :=
  if s.length ≠ transportSize t then .next (s.decodeFails .truncatedOrOversized)
  else s.withinBuffer decodeReach
    (if s.buf.read 0 ≠ transportReportId t then .next (s.decodeFails .unexpectedReportId)
     else .next s.decodeSucceeds)

end Sys2Proof.Machine
end

