-- ==== Sys2Proof/Machine/Dispatch.lean ====
section
/-! DEFINITION. From an instruction to its meaning, one arm per constructor. -/
namespace Sys2Proof.Machine

def exec (i : Instr) (s : State) : Host.Outcome State Fault Refusal :=
  match i with
  | .check sel => Sys2Proof.Machine.execCheck sel s
  | .update sel => Sys2Proof.Machine.execUpdate sel s
  | .decode t => Sys2Proof.Machine.execDecode t s

end Sys2Proof.Machine
end

