-- ==== Sys2Proof/Machine/Engine.lean ====
section
/-! DEFINITION. The engine's step (spec/10_state.md R20, R24): it classifies the pending word and executes it in
full; an illegal word completes with ILLEGAL_COMMAND before anything is read (spec/60_exceptions.md R201, R202). -/
namespace Sys2Proof.Machine

/-- One engine step on a state with busy = 1. -/
def engineStep (s : State) : Result :=
  match s.pending with
  | none => .fault .commandMissing
  | some w =>
    match classify w with
    | some i => exec i s
    | none => .next s.completeIllegal

end Sys2Proof.Machine
end

