-- ==== Sys2Proof/Machine/Flags.lean ====
section
/-! DEFINITION. STATUS, which holds every flag of the block (spec/10_state.md R29 to R36, R48, R51), and its
write-1-to-clear write. -/
namespace Sys2Proof.Machine

/-- One flag as a bit of a 32-bit register. -/
def flagBit (b : Bool) (i : Nat) : Word := (BitVec.ofBool b).setWidth 32 <<< i

/-- STATUS as R29 lays it out: BUSY 0, DONE 1, CRC_OK 2, REPORT_VALID 3, OVR 4, ERRCODE 11:8; the rest read 0 (R48). -/
def State.statusWord (s : State) : Word :=
  flagBit s.busy 0 ||| flagBit s.done 1 ||| flagBit s.crcOk 2 ||| flagBit s.reportValid 3 ||| flagBit s.ovr 4
    ||| s.errcode.setWidth 32 <<< 8

/-- The STATUS bits whose value a read made while busy leaves unspecified: CRC_OK, REPORT_VALID, ERRCODE (R73). -/
def statusDrawnBits : Word := 0x00000F0C

/-- STATUS as a read made while busy returns it, `d` being the draw: BUSY, DONE, OVR and the reserved bits always
read their current value (R73). -/
def State.statusWhileBusy (s : State) (d : Word) : Word :=
  (s.statusWord &&& ~~~statusDrawnBits) ||| (d &&& statusDrawnBits)

/-- A host write of `v` to STATUS: v[1] clears DONE, v[4] clears OVR, every other bit is ignored (R36). -/
def State.writeStatus (s : State) (v : Word) : State :=
  { s with done := s.done && !v.getLsbD 1, ovr := s.ovr && !v.getLsbD 4 }

end Sys2Proof.Machine
end

