-- ==== Sys2Proof/Machine/HostPort.lean ====
section
/-! DEFINITION. The host port (spec/20_memory.md R60 to R73): which accesses it refuses, what a read returns, what a
write does, and the host's other events (the WAIT loop of spec/30_encoding.md R100, the reset input of
spec/70_reset_and_hazards.md R230). -/
namespace Sys2Proof.Machine

/-- The mapped registers of R25. -/
inductive Reg where
  | id
  | cap
  | cmd
  | status
  | len
  | seed
  | crcResult
  | rptSticks
  | rptTrig
  | rptButtons
  | rptGyroX
  | rptGyroY
  | rptGyroZ
  | rptAccelX
  | rptAccelY
  | rptAccelZ
  | rptTimestamp
  | rptTouch0
  | rptTouch1
deriving DecidableEq, Repr

/-- The register map of R25; every other offset of the register window is unmapped. -/
def regMap : List (Nat × Reg) :=
  [(0x000, .id), (0x004, .cap), (0x008, .cmd), (0x00C, .status), (0x010, .len), (0x014, .seed), (0x018, .crcResult)] ++
  [(0x040, .rptSticks), (0x044, .rptTrig), (0x048, .rptButtons), (0x04C, .rptGyroX), (0x050, .rptGyroY),
   (0x054, .rptGyroZ), (0x058, .rptAccelX), (0x05C, .rptAccelY), (0x060, .rptAccelZ), (0x064, .rptTimestamp),
   (0x068, .rptTouch0), (0x06C, .rptTouch1)]

/-- The register at an offset of the register window. -/
def regAt (off : Nat) : Option Reg := regMap.lookup off

/-- The first offset of the buffer window (R61). -/
def bufferBase : Nat := 0x100

/-- The length of the aperture in bytes (R60). -/
def apertureSize : Nat := 0x200

/-- The offset of STATUS (R25), which WAIT reads. -/
def statusOffset : Nat := 0x00C

/-- `BusError(off, n)`, line by line as R64 gives it. -/
def busError (cfg : Config) (off n : Nat) : Bool :=
  decide (¬(n = 1 ∨ n = 2 ∨ n = 4)
    ∨ off % n ≠ 0
    ∨ apertureSize < off + n
    ∨ (off < bufferBase ∧ (n ≠ 4 ∨ regAt off = none))
    ∨ (bufferBase ≤ off ∧ bufferBase + cfg.bufCap < off + n))

/-! ## Reads -/

/-- ID, the ASCII codes of "DSRC" (R26). -/
def idValue : Word := 0x44535243

/-- A result of a command as the host reads it: the draw `d` while busy, else the value held (R73). -/
def State.result (s : State) (d v : Word) : Word := if s.busy then d else v

/-- A register read (R25 and the field rules; reserved bits read 0, R48), `d` being the draw. -/
def State.readReg (s : State) (d : Word) : Reg → Word
  | .id => idValue
  | .cap => BitVec.ofNat 32 s.cfg.bufCap
  | .cmd => 0
  | .status => if s.busy then s.statusWhileBusy d else s.statusWord
  | .len => s.len.setWidth 32
  | .seed => s.seed.setWidth 32
  | .crcResult => s.result d s.crcResult
  | .rptSticks => s.result d s.rpt.sticks
  | .rptTrig => s.result d s.rpt.trig
  | .rptButtons => s.result d s.rpt.buttons
  | .rptGyroX => s.result d s.rpt.gyroX
  | .rptGyroY => s.result d s.rpt.gyroY
  | .rptGyroZ => s.result d s.rpt.gyroZ
  | .rptAccelX => s.result d s.rpt.accelX
  | .rptAccelY => s.result d s.rpt.accelY
  | .rptAccelZ => s.result d s.rpt.accelZ
  | .rptTimestamp => s.result d s.rpt.timestamp
  | .rptTouch0 => s.result d s.rpt.touch0
  | .rptTouch1 => s.result d s.rpt.touch1

/-- R73's unstable bytes: the trailer `[LEN-4, LEN)` while an UPDATE whose length passes is pending. -/
def State.trailerUnstable (s : State) (a : Nat) : Bool :=
  s.busy && s.checkerLengthOk && decide (s.trailerAt ≤ a) && decide (a < s.length) &&
    (match s.pending.bind classify with
     | some (.update _) => true
     | _ => false)

/-- One byte of BUF as the host reads it: its current value, or the draw (R65, R73). -/
def State.hostByte (s : State) (d : Byte) (a : Nat) : Byte :=
  if s.trailerUnstable a then d else s.buf.read a

/-- A buffer-window read of `n` bytes from BUF offset `a`, little-endian; each byte lane has its own bits of the
draw `d` (R65, R66, R73). -/
def State.readBuffer (s : State) : Word → Nat → Nat → Word
  | _, _, 0 => 0
  | d, a, n + 1 => (s.hostByte (d.setWidth 8) a).setWidth 32 ||| s.readBuffer (d >>> 8) (a + 1) n <<< 8

/-- The value an access that is not refused returns, from either window (R62). -/
def State.readValue (s : State) (d : Word) (off n : Nat) : Word :=
  if off < bufferBase then
    match regAt off with
    | some r => s.readReg d r
    | none => 0
  else s.readBuffer d (off - bufferBase) n

/-- `HostRead(off, n)` (R62).  Refused, it changes nothing; otherwise it returns the value and has no side effect
(R71).  The free value it may use is fresh: a read made while busy moves the counter of draws on. -/
def hostRead (s : State) (off n : Nat) : State :=
  if busError s.cfg off n then s.respond .busError
  else { s with draws := if s.busy then s.draws + 1 else s.draws }.respond
    (.value (s.readValue (Config.draw s.draws) off n))

/-! ## Writes -/

/-- `k`, unless the engine is busy: then the write is dropped (R72, R207). -/
def State.unlessBusy (s : State) (k : State) : State := if s.busy then s.dropWrite else k

/-- A register write (R24, R36 to R38, R48, R49). -/
def State.writeReg (s : State) (v : Word) : Reg → State
  | .cmd => s.unlessBusy (s.issue v)
  | .status => s.writeStatus v
  | .len => s.unlessBusy { s with len := v.setWidth 16 }
  | .seed => s.unlessBusy { s with seed := v.setWidth 8 }
  | .id | .cap | .crcResult => s
  | .rptSticks | .rptTrig | .rptButtons | .rptGyroX | .rptGyroY | .rptGyroZ => s
  | .rptAccelX | .rptAccelY | .rptAccelZ | .rptTimestamp | .rptTouch0 | .rptTouch1 => s

/-- What an accepted write does, in either window (R62, R65). -/
def State.writeValue (s : State) (off n : Nat) (v : Word) : State :=
  if off < bufferBase then
    match regAt off with
    | some r => s.writeReg v r
    | none => s
  else s.unlessBusy { s with buf := memWrite s.buf (off - bufferBase) n v }

/-- `HostWrite(off, n, v)` (R62): refused without any change, or performed and answered `ok` (a dropped write too,
R72). -/
def hostWrite (s : State) (off n : Nat) (v : Word) : State :=
  if busError s.cfg off n then s.respond .busError
  else (s.writeValue off n v).respond .ok

/-! ## Events -/

/-- The aperture offset of a bus address: address minus BLOCK_BASE (R62).  An address below BLOCK_BASE has none
(assumption log 6). -/
def Config.offsetOf (cfg : Config) (addr : Nat) : Option Nat :=
  if cfg.blockBase ≤ addr then some (addr - cfg.blockBase) else none

/-- One access at a bus address. -/
def hostAccess (s : State) : Access → State
  | .read addr n =>
    match Config.offsetOf s.cfg addr with
    | some off => hostRead s off n
    | none => s.respond .busError
  | .write addr n v =>
    match Config.offsetOf s.cfg addr with
    | some off => hostWrite s off n v
    | none => s.respond .busError

/-- The host's step: the first waiting event.  WAIT reads STATUS and stands until the value read had BUSY = 0
(R100); that bit is the busy element itself (R73). -/
def hostStep (s : State) : State :=
  match s.inputs with
  | [] => s
  | .access a :: rest => hostAccess { s with inputs := rest } a
  | .wait :: rest => hostRead { s with inputs := if s.busy then s.inputs else rest } statusOffset 4
  | .reset contents :: rest => { s with inputs := rest }.resetInput contents

end Sys2Proof.Machine
end

