-- ==== Sys2Proof/Machine/Schedule.lean ====
section
/-! DEFINITION. Who takes the next step (spec/10_state.md R20; spec/20_memory.md R75; spec/60_exceptions.md R209;
spec/70_reset_and_hazards.md R240).  The engine has a step only while busy = 1 and the host only while an event
waits.  When both have one, the order is not fixed: the first entry of `schedule` decides and is used up.  Every
finite order is some `schedule`, and because it is finite the engine is always taken in the end, which is the weak
fairness of R240 (assumption log 7). -/
namespace Sys2Proof.Machine

/-- Both agents have a step. -/
def State.contended (s : State) : Bool := s.busy && !s.inputs.isEmpty

/-- The agent that takes the next step, or none while the block is idle and nothing arrives (R215, R234). -/
def State.turn (s : State) : Option Agent :=
  if s.contended then some (s.schedule.headD .engine)
  else if s.busy then some .engine
  else if s.inputs.isEmpty then none
  else some .host

/-- The state once the choice of `turn` is made: a contended choice uses up its entry. -/
def State.takeTurn (s : State) : State :=
  if s.contended then { s with schedule := s.schedule.tail } else s

end Sys2Proof.Machine
end

