-- ==== Sys2Proof/Machine/Step.lean ====
section
/-! DEFINITION. One step of the machine: one host event or one engine step (spec/20_memory.md R70, R75). -/
namespace Sys2Proof.Machine

/-- One step.  With nothing enabled the state is held as it is (R215, R234). -/
def step (s : State) : Host.Outcome State Fault Refusal :=
  match s.turn with
  | none => .next s
  | some .engine => engineStep s.takeTurn
  | some .host => .next (hostStep s.takeTurn)

/-- `s` with the instruction word `w` where the engine takes its next one: latched in `pending` as an accepted CMD
write latches it (R24), and the engine's turn next.  The block fetches no instruction (R78; assumption log 8). -/
def State.withFetchWord (s : State) (nbits w : Nat) : State :=
  { s.issue (BitVec.ofNat 32 (w % 2 ^ nbits)) with
    schedule := if s.inputs.isEmpty then s.schedule else .engine :: s.schedule }

end Sys2Proof.Machine
end

