-- ==== Sys2Proof/Machine/HostProgram.lean ====
section
/-! DEFINITION. The host program notation of spec/30_encoding.md R98 to R100: a program is a list of events at the
offsets of R25 from BLOCK_BASE, for the `inputs` of a state. -/
namespace Sys2Proof.Machine

/-- `R8`, `R16`, `R32`: HostRead(off, n) (R98). -/
def readAt (cfg : Config) (off n : Nat) : Input := .access (.read (cfg.blockBase + off) n)

/-- `W8`, `W16`, `W32`: HostWrite(off, n, v) (R98). -/
def writeAt (cfg : Config) (off n : Nat) (v : Word) : Input := .access (.write (cfg.blockBase + off) n v)

/-- `CMD w`, and with an instruction's word each command mnemonic of R99. -/
def cmdWord (cfg : Config) (w : Word) : Input := writeAt cfg 0x008 4 w

/-- A command mnemonic of R99: `W32 0x008, <word>`. -/
def cmdInstr (cfg : Config) (i : Instr) : Input := cmdWord cfg (encode i)

/-- `FILL off, n, v`, with `words` = n / 4 (R100). -/
def fill (cfg : Config) (off : Nat) (v : Word) : Nat → List Input
  | 0 => []
  | words + 1 => writeAt cfg off 4 v :: fill cfg (off + 4) v words

/-- `SETLEN n` (R100). -/
def setLen (cfg : Config) (n : Word) : Input := writeAt cfg 0x010 4 n

/-- `SETSEED b` (R100). -/
def setSeed (cfg : Config) (b : Word) : Input := writeAt cfg 0x014 4 b

/-- `CLEAR`: clears DONE and OVR (R100). -/
def clear (cfg : Config) : Input := writeAt cfg 0x00C 4 0x00000012

end Sys2Proof.Machine
end

