-- ==== Sys2Proof/Safety.lean ====
section
/-! DEFINITION. The terms claims use: the block's part of a state (spec/10_state.md R22), the states the spec
describes (an invariant), and a safe run. -/
namespace Sys2Proof.Machine

/-- The block itself: the configuration and the tuple of R22, with the model's own fields blanked.  Two states with
equal `block` differ only in what stands outside the block. -/
def State.block (s : State) : State :=
  { s with inputs := [], schedule := [], responses := [], draws := 0 }

/-- A register that holds a sign-extended 16-bit value: bits 31:16 are copies of bit 15 (R44, R45). -/
abbrev signExtended (w : Word) : Prop := (w.setWidth 16).signExtend 32 = w

/-- The states the spec describes. -/
structure State.Inv (s : State) : Prop where
  /-- The instance is an allowed one (R6, R7). -/
  cfg : s.cfg.wf = true
  /-- BUF is in canonical form and has no byte at or beyond BUF_CAP (R21). -/
  buf : s.buf.wf s.cfg.bufCap = true
  /-- `pending` is none iff busy = 0 (R22). -/
  pending : s.pending.isSome = s.busy
  /-- A command in flight has not completed since its issue (R24, R31). -/
  done : s.busy = true → s.done = false
  /-- ERRCODE never holds 5 to 15 (R35). -/
  errcode : s.errcode.toNat ≤ 4
  /-- CRC_OK = 1 describes a CHECK that completed with NONE (R32). -/
  crcOk : s.crcOk = true → s.errcode = 0
  /-- UNEXPECTED_REPORT_ID is DECODE's own error, and a failed DECODE clears REPORT_VALID (R33, R200). -/
  reportId : s.errcode = 2 → s.reportValid = false
  /-- The motion registers hold sign-extended values (R44, R45). -/
  gyroX : signExtended s.rpt.gyroX
  gyroY : signExtended s.rpt.gyroY
  gyroZ : signExtended s.rpt.gyroZ
  accelX : signExtended s.rpt.accelX
  accelY : signExtended s.rpt.accelY
  accelZ : signExtended s.rpt.accelZ

/-- A safe run of `k` steps: no step faults and none is refused. -/
def SafeFor : Nat → State → Prop
  | 0, _ => True
  | k + 1, s => ∃ t, step s = .next t ∧ SafeFor k t

/-- `t` is reached from `s` in exactly `k` steps. -/
def StepsTo : Nat → State → State → Prop
  | 0, s, t => s = t
  | k + 1, s, t => ∃ u, step s = .next u ∧ StepsTo k u t

/-! ## Words for claims -/

/-- The flags in the order of the table R51: BUSY, DONE, CRC_OK, REPORT_VALID, OVR, ERRCODE. -/
def State.flags (s : State) : Bool × Bool × Bool × Bool × Bool × BitVec 4 :=
  (s.busy, s.done, s.crcOk, s.reportValid, s.ovr, s.errcode)

/-- The results of commands: CRC_RESULT, CRC_OK, REPORT_VALID, ERRCODE and the report registers. -/
def State.results (s : State) : Word × Bool × Bool × BitVec 4 × Report :=
  (s.crcResult, s.crcOk, s.reportValid, s.errcode, s.rpt)

/-- The little-endian number of the `n` bytes at `p` (R12, R67). -/
def leNat (m : Memory) : Nat → Nat → Nat
  | _, 0 => 0
  | p, n + 1 => (m.read p).toNat + 256 * leNat m (p + 1) n

/-- The two's complement reading of the 16-bit little-endian field at `p` (R13). -/
def leInt16 (m : Memory) (p : Nat) : Int :=
  if leNat m p 2 < 32768 then (leNat m p 2 : Int) else (leNat m p 2 : Int) - 65536

/-- The next event is the reset input. -/
def State.nextIsReset (s : State) : Prop := ∃ c rest, s.inputs = .reset c :: rest

/-- The next event is a host write that the port does not refuse. -/
def State.nextIsWrite (s : State) (off n : Nat) (v : Word) : Prop :=
  ∃ addr rest, s.inputs = .access (.write addr n v) :: rest ∧ Config.offsetOf s.cfg addr = some off ∧
    busError s.cfg off n = false

/-- The engine takes the next step and the pending word decodes to `i`. -/
def State.nextIsCommand (s : State) (i : Instr) : Prop :=
  s.turn = some .engine ∧ ∃ w, s.pending = some w ∧ classify w = some i

/-- The offsets of BUF[0..64) that carry a field of the report: all but the reserved ranges (R111, R112). -/
def reportFieldOffset (a : Nat) : Prop :=
  a < 12 ∨ (16 ≤ a ∧ a < 32) ∨ (33 ≤ a ∧ a < 41) ∨ a = 53

end Sys2Proof.Machine
end

