-- ==== Sys2Proof/Certificates/Slice0/Obligations.lean ====
section
/-! DEFINITION. The statements about the model, in the terms of spec/.  Offsets are written as numbers, as
spec/10_state.md R25 gives them: 0x008 CMD, 0x00C STATUS, 0x010 LEN, 0x014 SEED, 0x018 CRC_RESULT, 0x100 on BUF. -/

open Sys2Proof Sys2Proof.Machine

/-! ## Encoding -/

/-- R99: each command mnemonic is the 32-bit write of its word to CMD, and the word decodes to that command. -/
def Obligations.MnemonicsStandForTheirWords : Prop :=
  (∀ cfg : Config, ∀ p ∈ ([(.check .direction, 0x00000001), (.check .a1, 0x00000011), (.check .a2, 0x00000021),
      (.check .seedReg, 0x00000031), (.update .direction, 0x00000002), (.update .a1, 0x00000012),
      (.update .a2, 0x00000022), (.update .seedReg, 0x00000032), (.decode .usb, 0x00000003),
      (.decode .bluetooth, 0x00000103)] : List (Instr × Word)),
    cmdInstr cfg p.1 = .access (.write (cfg.blockBase + 0x008) 4 p.2) ∧ classify p.2 = some p.1) ∧
  ∀ (cfg : Config) (w : Word), cmdWord cfg w = .access (.write (cfg.blockBase + 0x008) 4 w)

/-- R91 to R95: every instruction has exactly one command word, and a word means at most one instruction. -/
def Obligations.WordMeansInstrIffEncoded : Prop :=
  ∀ (w : Word) (i : Instr), classify w = some i ↔ w = encode i

/-- R96, R201: which words are illegal, that CMD accepts them, and what their completion does and does not do. -/
def Obligations.IllegalWordsCompleteWithoutEffect : Prop :=
  (∀ w : Word, classify w = none ↔
    (w.extractLsb' 0 4 ≠ 1#4 ∧ w.extractLsb' 0 4 ≠ 2#4 ∧ w.extractLsb' 0 4 ≠ 3#4)
    ∨ w.extractLsb' 9 23 ≠ 0#23 ∨ w.extractLsb' 6 2 ≠ 0#2
    ∨ ((w.extractLsb' 0 4 = 1#4 ∨ w.extractLsb' 0 4 = 2#4) ∧ w.getLsbD 8 = true)
    ∨ (w.extractLsb' 0 4 = 3#4 ∧ w.extractLsb' 4 2 ≠ 0#2)) ∧
  (∀ (s : State) (w : Word), classify w = none → s.busy = false →
    hostWrite s 0x008 4 w =
      { s with pending := some w, busy := true, done := false, responses := .ok :: s.responses }) ∧
  (∀ (s : State) (w : Word), classify w = none → s.pending = some w →
    engineStep s = .next { s with pending := none, busy := false, done := true, crcOk := false, errcode := 4 })

/-! ## Steps -/

/-- R24: when the engine has its turn, a step runs the decoded pending word and adds only the use of one schedule
entry, when a host event also waits (the schedule is the model's own, assumption log 7). -/
def Obligations.StepRunsThePendingCommand : Prop :=
  ∀ (s : State) (w : Word) (i : Instr), s.busy = true → s.pending = some w → classify w = some i →
    (s.inputs = [] → step s = exec i s) ∧
    (s.inputs ≠ [] → s.schedule.head? ≠ some .host → step s = exec i { s with schedule := s.schedule.tail })

/-- R75, R209: with a command pending and a host event waiting, both orders are steps of the machine (the
schedule is the model's own, assumption log 7). -/
def Obligations.BothOrdersAreAdmitted : Prop :=
  ∀ (s : State) (order : List Agent), s.busy = true → s.inputs ≠ [] →
    step { s with schedule := .engine :: order } = engineStep { s with schedule := order } ∧
    step { s with schedule := .host :: order } = .next (hostStep { s with schedule := order })

/-- R209: a CMD write that races a completion is accepted if it comes after it, and dropped with OVR = 1 if before
(the schedule is the model's own, assumption log 7). -/
def Obligations.CmdWriteRacesCompletion : Prop :=
  ∀ (s : State) (v : Word), s.Inv → s.busy = true → s.inputs = [cmdWord s.cfg v] →
    (∃ t u, step { s with schedule := [.engine] } = .next t ∧ t.busy = false ∧ step t = .next u ∧
      u.busy = true ∧ u.pending = some v ∧ u.done = false ∧ u.ovr = s.ovr) ∧
    (∃ t u, step { s with schedule := [.host] } = .next t ∧ t.pending = s.pending ∧ t.ovr = true ∧
      step t = .next u ∧ u.busy = false ∧ u.pending = none ∧ u.done = true ∧ u.ovr = true)

/-- R240, R24: an accepted command always completes, whatever finite order of host events comes before: BUSY falls and
nothing is pending, with DONE = 1 unless a waiting reset may abandon the command instead (R233).  That an order is a
finite schedule is the model's form of weak fairness (assumption log 7). -/
def Obligations.EveryAcceptedCommandCompletes : Prop :=
  ∀ s : State, s.Inv → s.busy = true → ∃ k t, k ≤ s.schedule.length + 1 ∧ StepsTo k s t ∧
    t.busy = false ∧ t.pending = none ∧ ((∀ c, .reset c ∉ s.inputs) → t.done = true)

/-- R215, R234: while idle with no event the state is held (that such a step answers the same state is the model's
choice, assumption log 9). -/
def Obligations.IdleBlockHoldsItsState : Prop :=
  ∀ s : State, s.busy = false → s.inputs = [] → step s = .next s

/-! ## The invariant -/

/-- R22, R231: a reset instance is a state the spec describes, whatever BUF holds. -/
def Obligations.ResetMeetsTheInvariant : Prop :=
  (∀ (cfg : Config) (m : Memory), cfg.wf = true → m.wf cfg.bufCap = true → (State.resetOf cfg m).Inv) ∧
  State.reset.Inv

/-- R22, R24, R31 to R35, R44, R45: every step keeps the invariant. -/
def Obligations.EveryStepKeepsTheInvariant : Prop :=
  ∀ s t : State, s.Inv → step s = .next t → t.Inv

/-- The block has no traps and no command addresses a byte outside BUF (R74): no run of an allowed instance stops. -/
def Obligations.NoRunOfAnAllowedInstanceStops : Prop :=
  ∀ s : State, s.Inv → ∀ k, SafeFor k s

/-- R50: no step changes the configuration (that it stands in the state is the model's choice, assumption log 1). -/
def Obligations.ConfigurationNeverChanges : Prop :=
  ∀ s t : State, step s = .next t → t.cfg = s.cfg

/-! ## CHECK and UPDATE -/

/-- R174: CHECK, its encoding, and its effect both when the length passes and when it does not, with its whole frame.
`c` is R171's function of the seed and BUF[0..L-4) under the instance's CRC_SEEDING (assumption log 10). -/
def Obligations.CheckComparesTheTrailer : Prop :=
  (∀ w : Word, (∃ sel, classify w = some (.check sel)) ↔ w &&& 0xFFFFFFCF#32 = 0x00000001#32) ∧
  ∀ (sel : SeedSel) (s : State),
    let L := s.len.toNat
    let seed : Byte := match sel with
      | .direction => 0xA1
      | .a1 => 0xA1
      | .a2 => 0xA2
      | .seedReg => s.seed
    let c := crc32Seeded s.cfg.seeding seed ((List.range (L - 4)).map s.buf.read)
    (4 ≤ L → L ≤ s.cfg.bufCap →
      exec (.check sel) s = .next { s with
        crcResult := c
        crcOk := decide (c.toNat = leNat s.buf (L - 4) 4)
        errcode := if c.toNat = leNat s.buf (L - 4) 4 then 0 else 3
        busy := false, done := true, pending := none }) ∧
    (L < 4 ∨ s.cfg.bufCap < L →
      exec (.check sel) s = .next { s with
        crcOk := false, errcode := 1, busy := false, done := true, pending := none })

/-- R175: UPDATE, its encoding, and its effect both when the length passes and when it does not, with its whole frame:
of BUF only the trailer. -/
def Obligations.UpdateStampsTheTrailer : Prop :=
  (∀ w : Word, (∃ sel, classify w = some (.update sel)) ↔ w &&& 0xFFFFFFCF#32 = 0x00000002#32) ∧
  ∀ (sel : SeedSel) (s : State), s.buf.wf s.cfg.bufCap = true →
    let L := s.len.toNat
    let seed : Byte := match sel with
      | .direction => 0xA2
      | .a1 => 0xA1
      | .a2 => 0xA2
      | .seedReg => s.seed
    let c := crc32Seeded s.cfg.seeding seed ((List.range (L - 4)).map s.buf.read)
    (4 ≤ L → L ≤ s.cfg.bufCap →
      ∃ t, exec (.update sel) s = .next t ∧
        t = { s with
          buf := t.buf, crcResult := c
          crcOk := false, errcode := 0, busy := false, done := true, pending := none } ∧
        leNat t.buf (L - 4) 4 = c.toNat ∧
        ∀ a, a < L - 4 ∨ L ≤ a → t.buf.read a = s.buf.read a) ∧
    (L < 4 ∨ s.cfg.bufCap < L →
      exec (.update sel) s = .next { s with
        crcOk := false, errcode := 1, busy := false, done := true, pending := none })

/-- R176: a CHECK with the seed of an earlier UPDATE matches, whatever happened in between, as long as LEN and the
bytes BUF[0..L) are those UPDATE left. -/
def Obligations.UpdateThenCheckMatches : Prop :=
  ∀ (selU selC : SeedSel) (s t r : State), s.buf.wf s.cfg.bufCap = true → 4 ≤ s.len.toNat →
    s.len.toNat ≤ s.cfg.bufCap → exec (.update selU) s = .next t →
    r.cfg = s.cfg → r.len = t.len → (∀ a, a < s.len.toNat → r.buf.read a = t.buf.read a) →
    seedOf checkSeed selC r = seedOf updateSeed selU s →
    ∃ u, exec (.check selC) r = .next u ∧ u.crcOk = true ∧ u.errcode = 0 ∧ u.crcResult = t.crcResult

/-- R177, first property: after an UPDATE, one flipped bit of BUF[0..L-4) makes a CHECK with the same seed fail.
It is stated for both values of CRC_SEEDING (XOR_INIT: assumption log 10). -/
def Obligations.OneFlippedBitIsDetected : Prop :=
  ∀ (selU selC : SeedSel) (s t r : State) (a j : Nat), s.buf.wf s.cfg.bufCap = true → 4 ≤ s.len.toNat →
    s.len.toNat ≤ s.cfg.bufCap → exec (.update selU) s = .next t →
    r.cfg = s.cfg → r.len = t.len → a < s.len.toNat - 4 → j < 8 →
    (∀ b, b < s.len.toNat → r.buf.read b = if b = a then t.buf.read b ^^^ BitVec.twoPow 8 j else t.buf.read b) →
    seedOf checkSeed selC r = seedOf updateSeed selU s →
    ∃ u, exec (.check selC) r = .next u ∧ u.crcOk = false ∧ u.errcode = 3

/-- R177, second property, and R179: after an UPDATE with one seed a CHECK with any other seed fails.
R177 derives it for PREFIX_BYTE; that it holds for an XOR_INIT instance too rests on the algebra of assumption log 10. -/
def Obligations.AnotherSeedIsRejected : Prop :=
  ∀ (selU selC : SeedSel) (s t r : State), s.buf.wf s.cfg.bufCap = true → 4 ≤ s.len.toNat →
    s.len.toNat ≤ s.cfg.bufCap → exec (.update selU) s = .next t →
    r.cfg = s.cfg → r.len = t.len → (∀ a, a < s.len.toNat → r.buf.read a = t.buf.read a) →
    seedOf checkSeed selC r ≠ seedOf updateSeed selU s →
    ∃ u, exec (.check selC) r = .next u ∧ u.crcOk = false ∧ u.errcode = 3

/-- R178: UPDATE does not depend on the bytes it overwrites, a second UPDATE with the same seed changes neither BUF
nor CRC_RESULT, and CHECK never writes BUF. -/
def Obligations.UpdateIsIdempotent : Prop :=
  (∀ (sel sel' : SeedSel) (s t r : State), s.buf.wf s.cfg.bufCap = true → r.buf.wf s.cfg.bufCap = true →
    4 ≤ s.len.toNat → s.len.toNat ≤ s.cfg.bufCap → exec (.update sel) s = .next t →
    r.cfg = s.cfg → r.len = s.len → seedOf updateSeed sel' r = seedOf updateSeed sel s →
    (∀ a, a < s.len.toNat - 4 → r.buf.read a = s.buf.read a) →
    ∃ u, exec (.update sel') r = .next u ∧ u.crcResult = t.crcResult ∧
      (∀ a, a < s.len.toNat → u.buf.read a = t.buf.read a) ∧ (r.buf = t.buf → u.buf = t.buf)) ∧
  ∀ (sel : SeedSel) (s u : State), exec (.check sel) s = .next u → u.buf = s.buf

/-- R174: CHECK's result depends only on LEN, the seed byte and BUF[0..L); bytes at offsets ≥ L are not read. -/
def Obligations.CheckReadsOnlyBelowLen : Prop :=
  ∀ (sel sel' : SeedSel) (s r : State), r.cfg = s.cfg → r.len = s.len →
    seedOf checkSeed sel' r = seedOf checkSeed sel s →
    (∀ a, a < s.len.toNat → r.buf.read a = s.buf.read a) →
    ∃ t u, exec (.check sel) s = .next t ∧ exec (.check sel') r = .next u ∧
      u.crcOk = t.crcOk ∧ u.errcode = t.errcode ∧ (4 ≤ s.len.toNat → s.len.toNat ≤ s.cfg.bufCap →
        u.crcResult = t.crcResult)

/-! ## The CRC -/

/-- R171: the seeded CRC is the CRC-32 of the seed byte followed by the data, and the register after each default
seed is the one the rule gives (the initial value and the inversion are general knowledge, assumption log 10). -/
def Obligations.SeededCrcIsCrcOfSeedThenData : Prop :=
  (∀ (seed : Byte) (data : List Byte),
    crc32Seeded .prefixByte seed data = (seed :: data).foldl crcStep 0xFFFFFFFF#32 ^^^ 0xFFFFFFFF#32) ∧
  crcStep 0xFFFFFFFF#32 0xA1#8 = 0x8C2C830C#32 ∧ crcStep 0xFFFFFFFF#32 0xA2#8 = 0x1525D2B6#32

/-- V-C0 and rows of V-C3 (spec/95_test_vectors.md). -/
def Obligations.CrcVectorsOfTheSpec : Prop :=
  ([0x31, 0x32, 0x33, 0x34, 0x35, 0x36, 0x37, 0x38, 0x39] : List Byte).foldl crcStep 0xFFFFFFFF#32 ^^^ 0xFFFFFFFF#32
      = 0xCBF43926#32 ∧
  crc32Seeded .prefixByte 0xA1 [] = 0x73D37CF3#32 ∧ crc32Seeded .prefixByte 0xA2 [] = 0xEADA2D49#32 ∧
  crc32Seeded .prefixByte 0xA1 [0x31] = 0xA71B9F6D#32 ∧ crc32Seeded .prefixByte 0xA2 [0x31] = 0x8C36CCAE#32 ∧
  crc32Seeded .prefixByte 0x00 [] = 0xD202EF8D#32 ∧ crc32Seeded .prefixByte 0xFF [] = 0xFF000000#32

/-- R170: a table-driven CRC is correct because it computes the bit-serial step: the table entry of the low byte of
register and data, folded into the register shifted by a byte. -/
def Obligations.TableDrivenStepAgrees : Prop :=
  ∀ (c : Word) (b : Byte), crcStep c b = (c >>> 8) ^^^ crcBits 8 ((c ^^^ b.setWidth 32) &&& 0xFF#32)

/-! ## DECODE -/

/-- R143 to R145 (layout R41 to R47, R111, R113): a DECODE whose length and report ID match unpacks every field, and
leaves everything else as it was.  That a motion field is a two's complement number is R13's, which the spec marks as
general knowledge (assumption log 13). -/
def Obligations.DecodeUnpacksTheReport : Prop :=
  ∀ (tr : Transport) (s : State), s.cfg.wf = true →
    (tr = .usb → s.len = 64 ∧ s.buf.read 0 = 0x01) → (tr = .bluetooth → s.len = 78 ∧ s.buf.read 0 = 0x31) →
    ∃ r : Report,
      exec (.decode tr) s = .next { s with
        rpt := r, reportValid := true
        crcOk := false, errcode := 0, busy := false, done := true, pending := none } ∧
      (∀ k < 4, r.sticks.extractLsb' (8 * k) 8 = s.buf.read (1 + k)) ∧
      (∀ k < 3, r.trig.extractLsb' (8 * k) 8 = s.buf.read (5 + k)) ∧ r.trig.extractLsb' 24 8 = s.buf.read 53 ∧
      (∀ k < 4, r.buttons.extractLsb' (8 * k) 8 = s.buf.read (8 + k)) ∧
      r.gyroX.toInt = leInt16 s.buf 16 ∧ r.gyroY.toInt = leInt16 s.buf 18 ∧ r.gyroZ.toInt = leInt16 s.buf 20 ∧
      r.accelX.toInt = leInt16 s.buf 22 ∧ r.accelY.toInt = leInt16 s.buf 24 ∧ r.accelZ.toInt = leInt16 s.buf 26 ∧
      r.timestamp.toNat = leNat s.buf 28 4 ∧
      (∀ q ∈ ([(r.touch0, 33), (r.touch1, 37)] : List (Word × Nat)),
        q.1.extractLsb' 0 8 = s.buf.read q.2 ∧
        (q.1.extractLsb' 8 12).toNat = (s.buf.read (q.2 + 1)).toNat + 256 * ((s.buf.read (q.2 + 2)).toNat % 16) ∧
        (q.1.extractLsb' 20 12).toNat = (s.buf.read (q.2 + 2)).toNat / 16 + 16 * (s.buf.read (q.2 + 3)).toNat)

/-- R141, R142 (order of R202): a length other than the transport's fails first, whatever BUF holds, and then a wrong
report ID; the report registers stay and are marked invalid.  A length that passes is within BUF_CAP. -/
def Obligations.DecodeChecksLengthThenReportId : Prop :=
  (∀ (tr : Transport) (s : State), s.len ≠ (match tr with | .usb => 64#16 | .bluetooth => 78#16) →
    exec (.decode tr) s = .next { s with
      reportValid := false, crcOk := false, errcode := 1, busy := false, done := true, pending := none }) ∧
  (∀ (tr : Transport) (s : State), s.cfg.wf = true → s.len = (match tr with | .usb => 64#16 | .bluetooth => 78#16) →
    s.buf.read 0 ≠ (match tr with | .usb => 0x01#8 | .bluetooth => 0x31#8) →
    exec (.decode tr) s = .next { s with
      reportValid := false, crcOk := false, errcode := 2, busy := false, done := true, pending := none }) ∧
  (∀ (tr : Transport) (cfg : Config), cfg.wf = true → (match tr with | .usb => 64 | .bluetooth => 78) ≤ cfg.bufCap)

/-- R112, R114, R146: what DECODE computes depends only on T, LEN and the bytes that carry a field; reserved bytes and
bytes from 64 on never change it. -/
def Obligations.DecodeIgnoresReservedBytes : Prop :=
  ∀ (tr : Transport) (s r : State), s.cfg.wf = true → r.cfg.wf = true → r.len = s.len →
    (∀ a, reportFieldOffset a → r.buf.read a = s.buf.read a) →
    ∃ t u, exec (.decode tr) s = .next t ∧ exec (.decode tr) r = .next u ∧ u.errcode = t.errcode ∧
      u.reportValid = t.reportValid ∧ u.crcOk = t.crcOk ∧ (t.reportValid = true → u.rpt = t.rpt)

/-- R149: after a successful DECODE the report registers determine every byte that carries a field. -/
def Obligations.ReportRegistersDetermineTheBytes : Prop :=
  ∀ (tr tr' : Transport) (s r t u : State), exec (.decode tr) s = .next t → exec (.decode tr') r = .next u →
    t.reportValid = true → u.reportValid = true → t.rpt = u.rpt →
    ∀ a, 1 ≤ a → reportFieldOffset a → s.buf.read a = r.buf.read a

/-- S1 to S3, S11 of spec/95_test_vectors.md and R145: x and y are the document's formulas, and the two nibbles of
byte2 are disjoint: its low nibble reaches only x[11:8], its high nibble only y[3:0]. -/
def Obligations.TouchNibblesAreDisjoint : Prop :=
  ∀ b1 b2 b3 b2' : Byte,
    (touchX b1 b2).toNat = b1.toNat + 256 * (b2.toNat % 16) ∧
    (touchY b2 b3).toNat = b2.toNat / 16 + 16 * b3.toNat ∧
    (touchX b1 b2).extractLsb' 0 8 = b1 ∧ (touchY b2 b3).extractLsb' 4 8 = b3 ∧
    (b2 &&& 0x0F#8 = b2' &&& 0x0F#8 → touchX b1 b2 = touchX b1 b2') ∧
    (b2 &&& 0xF0#8 = b2' &&& 0xF0#8 → touchY b2 b3 = touchY b2' b3)

/-! ## What commands leave alone, and what changes what -/

/-- R21, R33, R37 to R40, R203: what a command never writes, what its completion always writes, and which command may
write each of the rest. -/
def Obligations.CommandFrame : Prop :=
  ∀ (i : Instr) (s t : State), s.buf.wf s.cfg.bufCap = true → exec i s = .next t →
    t.cfg = s.cfg ∧ t.len = s.len ∧ t.seed = s.seed ∧ t.ovr = s.ovr ∧ t.inputs = s.inputs ∧
    t.schedule = s.schedule ∧ t.responses = s.responses ∧ t.draws = s.draws ∧
    t.busy = false ∧ t.done = true ∧ t.pending = none ∧
    ((∀ tr, i ≠ .decode tr) → t.rpt = s.rpt ∧ t.reportValid = s.reportValid) ∧
    (t.reportValid = false → t.rpt = s.rpt) ∧
    ((∃ tr, i = .decode tr) ∨ s.len.toNat < 4 ∨ s.cfg.bufCap < s.len.toNat → t.crcResult = s.crcResult) ∧
    (∀ a, t.buf.read a ≠ s.buf.read a →
      (∃ sel, i = .update sel) ∧ 4 ≤ s.len.toNat ∧ s.len.toNat ≤ s.cfg.bufCap ∧
        s.len.toNat - 4 ≤ a ∧ a < s.len.toNat)

/-- R51, the whole table: which event leaves which flags. -/
def Obligations.FlagTable : Prop :=
  (∀ (s : State) (v : Word), s.busy = false →
    (hostWrite s 0x008 4 v).flags = (true, false, s.crcOk, s.reportValid, s.ovr, s.errcode)) ∧
  (∀ (s : State) (off n : Nat) (v : Word), s.busy = true → busError s.cfg off n = false →
    off = 0x008 ∨ off = 0x010 ∨ off = 0x014 ∨ 0x100 ≤ off →
    (hostWrite s off n v).flags = (true, s.done, s.crcOk, s.reportValid, true, s.errcode)) ∧
  (∀ (sel : SeedSel) (s : State), 4 ≤ s.len.toNat → s.len.toNat ≤ s.cfg.bufCap →
    ∃ t, exec (.check sel) s = .next t ∧
      (t.crcResult.toNat = leNat s.buf (s.len.toNat - 4) 4 → t.flags = (false, true, true, s.reportValid, s.ovr, 0)) ∧
      (t.crcResult.toNat ≠ leNat s.buf (s.len.toNat - 4) 4 →
        t.flags = (false, true, false, s.reportValid, s.ovr, 3))) ∧
  (∀ (sel : SeedSel) (s : State), s.len.toNat < 4 ∨ s.cfg.bufCap < s.len.toNat →
    (∃ t, exec (.check sel) s = .next t ∧ t.flags = (false, true, false, s.reportValid, s.ovr, 1)) ∧
    (∃ t, exec (.update sel) s = .next t ∧ t.flags = (false, true, false, s.reportValid, s.ovr, 1))) ∧
  (∀ (sel : SeedSel) (s : State), 4 ≤ s.len.toNat → s.len.toNat ≤ s.cfg.bufCap →
    ∃ t, exec (.update sel) s = .next t ∧ t.flags = (false, true, false, s.reportValid, s.ovr, 0)) ∧
  (∀ (tr : Transport) (s : State), s.cfg.wf = true →
    ∃ t, exec (.decode tr) s = .next t ∧
      (s.len.toNat = transportSize tr → s.buf.read 0 = transportReportId tr →
        t.flags = (false, true, false, true, s.ovr, 0)) ∧
      (s.len.toNat ≠ transportSize tr → t.flags = (false, true, false, false, s.ovr, 1)) ∧
      (s.len.toNat = transportSize tr → s.buf.read 0 ≠ transportReportId tr →
        t.flags = (false, true, false, false, s.ovr, 2))) ∧
  (∀ (s : State) (w : Word), s.pending = some w → classify w = none →
    ∃ t, engineStep s = .next t ∧ t.flags = (false, true, false, s.reportValid, s.ovr, 4)) ∧
  (∀ (s : State) (v : Word), (hostWrite s 0x00C 4 v).flags =
    (s.busy, (if v.getLsbD 1 then false else s.done), s.crcOk, s.reportValid,
      (if v.getLsbD 4 then false else s.ovr), s.errcode)) ∧
  (∀ (s : State) (c : List Byte) (rest : List Input), s.inputs = .reset c :: rest →
    (hostStep s).flags = (false, false, false, false, false, 0))

/-- R30: BUSY reads as the busy element, is 0 after reset, is set only by an accepted CMD write and cleared only by a
completion or by reset. -/
def Obligations.BusyChangesOnlyByCommandOrReset : Prop :=
  (∀ s : State, s.statusWord.getLsbD 0 = s.busy) ∧ (∀ (cfg : Config) (m : Memory), (State.resetOf cfg m).busy = false) ∧
  ∀ s t : State, step s = .next t →
    (s.busy = false → t.busy = true → ∃ v, s.nextIsWrite 0x008 4 v ∧ t.pending = some v) ∧
    (s.busy = true → t.busy = false → (s.turn = some .engine ∧ t.done = true ∧ t.pending = none) ∨ s.nextIsReset)

/-- R34: OVR is set only by a write dropped while busy, and cleared only by a STATUS write with bit 4 or by reset. -/
def Obligations.OverrunIsSticky : Prop :=
  ∀ s t : State, step s = .next t →
    (s.ovr = false → t.ovr = true → s.busy = true ∧
      ∃ off n v, s.nextIsWrite off n v ∧ (off = 0x008 ∨ off = 0x010 ∨ off = 0x014 ∨ 0x100 ≤ off)) ∧
    (s.ovr = true → t.ovr = false → (∃ v, s.nextIsWrite 0x00C 4 v ∧ v.getLsbD 4 = true) ∨ s.nextIsReset)

/-- R32, R33, R35, R39, R40: the results of commands change only at a completion or by reset. -/
def Obligations.ResultsChangeOnlyAtCompletion : Prop :=
  ∀ s t : State, step s = .next t → t.results ≠ s.results →
    (s.turn = some .engine ∧ s.busy = true ∧ t.busy = false ∧ t.done = true) ∨ s.nextIsReset

/-- R33, R40: the report registers change only by a DECODE that succeeds, or by reset. -/
def Obligations.ReportChangesOnlyBySuccessfulDecode : Prop :=
  ∀ s t : State, step s = .next t → t.rpt ≠ s.rpt →
    (∃ tr, s.nextIsCommand (.decode tr) ∧ t.reportValid = true ∧ t.errcode = 0) ∨ s.nextIsReset

/-- R21, R37, R38, R72: the operands of commands change only by a host write while idle, by the trailer of an UPDATE,
or by reset. -/
def Obligations.OperandsChangeOnlyWhileIdle : Prop :=
  ∀ s t : State, s.Inv → step s = .next t →
    (t.len ≠ s.len → (s.busy = false ∧ ∃ v, s.nextIsWrite 0x010 4 v ∧ t.len = v.setWidth 16) ∨ s.nextIsReset) ∧
    (t.seed ≠ s.seed → (s.busy = false ∧ ∃ v, s.nextIsWrite 0x014 4 v ∧ t.seed = v.setWidth 8) ∨ s.nextIsReset) ∧
    (∀ a, t.buf.read a ≠ s.buf.read a →
      (∃ sel, s.nextIsCommand (.update sel) ∧ s.len.toNat - 4 ≤ a ∧ a < s.len.toNat) ∨
      (s.busy = false ∧ ∃ off n v, s.nextIsWrite off n v ∧ off ≤ 0x100 + a ∧ 0x100 + a < off + n) ∨ s.nextIsReset)

/-! ## The host port -/

/-- R61, R63, R64: an access is performed exactly when it is a 32-bit access to a mapped register or a naturally
aligned access of 1, 2 or 4 bytes inside the buffer window. -/
def Obligations.PerformedAccesses : Prop :=
  ∀ (cfg : Config) (off n : Nat), cfg.wf = true → (busError cfg off n = false ↔
    (n = 4 ∧ off ∈ [0x000, 0x004, 0x008, 0x00C, 0x010, 0x014, 0x018, 0x040, 0x044, 0x048, 0x04C, 0x050, 0x054, 0x058,
      0x05C, 0x060, 0x064, 0x068, 0x06C]) ∨
    ((n = 1 ∨ n = 2 ∨ n = 4) ∧ off % n = 0 ∧ 0x100 ≤ off ∧ off + n ≤ 0x100 + cfg.bufCap))

/-- R206: a refused access answers BusError and changes nothing else. -/
def Obligations.BusErrorChangesNothing : Prop :=
  ∀ (s : State) (off n : Nat) (v : Word), busError s.cfg off n = true →
    hostRead s off n = { s with responses := .busError :: s.responses } ∧
    hostWrite s off n v = { s with responses := .busError :: s.responses }

/-- R7, R62, R98: an event at an address acts at that address minus BLOCK_BASE (that an address below BLOCK_BASE is
refused is the model's choice, assumption log 6). -/
def Obligations.AccessesActAtTheirOffset : Prop :=
  ∀ (s : State) (off n addr : Nat) (v : Word) (rest : List Input),
    hostStep { s with inputs := readAt s.cfg off n :: rest } = hostRead { s with inputs := rest } off n ∧
    hostStep { s with inputs := writeAt s.cfg off n v :: rest } = hostWrite { s with inputs := rest } off n v ∧
    (addr < s.cfg.blockBase →
      hostStep { s with inputs := .access (.read addr n) :: rest } =
        { s with inputs := rest, responses := .busError :: s.responses } ∧
      hostStep { s with inputs := .access (.write addr n v) :: rest } =
        { s with inputs := rest, responses := .busError :: s.responses })

/-- R25 to R28, R37 to R47, R63: what each register reads as while idle, with nothing else changed. -/
def Obligations.IdleRegisterReads : Prop :=
  ∀ s : State, s.busy = false → ∀ p ∈ ([(0x000, 0x44535243), (0x004, BitVec.ofNat 32 s.cfg.bufCap), (0x008, 0),
      (0x00C, s.statusWord), (0x010, s.len.setWidth 32), (0x014, s.seed.setWidth 32), (0x018, s.crcResult),
      (0x040, s.rpt.sticks), (0x044, s.rpt.trig), (0x048, s.rpt.buttons), (0x04C, s.rpt.gyroX), (0x050, s.rpt.gyroY),
      (0x054, s.rpt.gyroZ), (0x058, s.rpt.accelX), (0x05C, s.rpt.accelY), (0x060, s.rpt.accelZ),
      (0x064, s.rpt.timestamp), (0x068, s.rpt.touch0), (0x06C, s.rpt.touch1)] : List (Nat × Word)),
    hostRead s p.1 4 = { s with responses := .value p.2 :: s.responses }

/-- R29: the places of the STATUS fields; every other bit is 0. -/
def Obligations.StatusLayout : Prop :=
  ∀ s : State, s.statusWord.getLsbD 0 = s.busy ∧ s.statusWord.getLsbD 1 = s.done ∧ s.statusWord.getLsbD 2 = s.crcOk ∧
    s.statusWord.getLsbD 3 = s.reportValid ∧ s.statusWord.getLsbD 4 = s.ovr ∧
    s.statusWord.extractLsb' 5 3 = 0#3 ∧ s.statusWord.extractLsb' 8 4 = s.errcode ∧
    s.statusWord.extractLsb' 12 20 = 0#20

/-- R48: reserved bits of a mapped register read 0, while busy too, and ignore the value written. -/
def Obligations.ReservedBitsReadZero : Prop :=
  (∀ (s : State) (d : Word), s.cfg.wf = true →
    (s.readReg d .status).extractLsb' 5 3 = 0#3 ∧ (s.readReg d .status).extractLsb' 12 20 = 0#20 ∧
    (s.readReg d .cap).extractLsb' 16 16 = 0#16 ∧ (s.readReg d .len).extractLsb' 16 16 = 0#16 ∧
    (s.readReg d .seed).extractLsb' 8 24 = 0#24) ∧
  ∀ (s : State) (v : Word),
    hostWrite s 0x00C 4 v = hostWrite s 0x00C 4 (v &&& 0x00000F1F#32) ∧
    hostWrite s 0x004 4 v = hostWrite s 0x004 4 (v &&& 0x0000FFFF#32) ∧
    hostWrite s 0x010 4 v = hostWrite s 0x010 4 (v &&& 0x0000FFFF#32) ∧
    hostWrite s 0x014 4 v = hostWrite s 0x014 4 (v &&& 0x000000FF#32)

/-- R24: while idle a CMD write is accepted, whatever the last command's error (R205). -/
def Obligations.IdleCmdWriteIsAccepted : Prop :=
  ∀ (s : State) (v : Word), s.busy = false →
    hostWrite s 0x008 4 v =
      { s with pending := some v, busy := true, done := false, responses := .ok :: s.responses }

/-- R36: the STATUS write, busy or not. -/
def Obligations.StatusWriteClearsDoneAndOvr : Prop :=
  ∀ (s : State) (v : Word), hostWrite s 0x00C 4 v =
    { s with
      done := if v.getLsbD 1 = true then false else s.done
      ovr := if v.getLsbD 4 = true then false else s.ovr
      responses := .ok :: s.responses }

/-- R37, R38: LEN and SEED keep the field written while idle, and read it back. -/
def Obligations.OperandRegistersReadBack : Prop :=
  ∀ (s : State) (v : Word), s.busy = false →
    hostWrite s 0x010 4 v = { s with len := v.setWidth 16, responses := .ok :: s.responses } ∧
    hostRead (hostWrite s 0x010 4 v) 0x010 4 =
      (hostWrite s 0x010 4 v).respond (.value (v &&& 0x0000FFFF#32)) ∧
    hostWrite s 0x014 4 v = { s with seed := v.setWidth 8, responses := .ok :: s.responses } ∧
    hostRead (hostWrite s 0x014 4 v) 0x014 4 =
      (hostWrite s 0x014 4 v).respond (.value (v &&& 0x000000FF#32))

/-- R49: a write to a read-only register is accepted and changes no state. -/
def Obligations.ReadOnlyRegistersIgnoreWrites : Prop :=
  ∀ (s : State) (v : Word), ∀ off ∈ [0x000, 0x004, 0x018, 0x040, 0x044, 0x048, 0x04C, 0x050, 0x054, 0x058, 0x05C,
      0x060, 0x064, 0x068, 0x06C],
    hostWrite s off 4 v = { s with responses := .ok :: s.responses }

/-- R65, R66: while idle an access of n bytes to the buffer window reads and writes the n bytes from its offset on,
lane k being byte k, and a write changes nothing else. -/
def Obligations.BufferWindowIsLittleEndian : Prop :=
  ∀ (s : State) (off n : Nat) (v : Word), s.buf.wf s.cfg.bufCap = true → s.busy = false → 0x100 ≤ off →
    busError s.cfg off n = false →
    (∃ x : Word, hostRead s off n = { s with responses := .value x :: s.responses } ∧
      x.toNat = leNat s.buf (off - 0x100) n) ∧
    (∃ m : Memory, hostWrite s off n v = { s with buf := m, responses := .ok :: s.responses } ∧
      leNat m (off - 0x100) n = v.toNat % 2 ^ (8 * n) ∧
      ∀ a, a < off - 0x100 ∨ off - 0x100 + n ≤ a → m.read a = s.buf.read a)

/-- R71: reads have no side effect, and only CMD writes are not idempotent. -/
def Obligations.ReadsAndRepeatedWritesHaveNoEffect : Prop :=
  (∀ (s : State) (off n : Nat), (hostRead s off n).block = s.block) ∧
  ∀ (s : State) (off n : Nat) (v : Word), s.buf.wf s.cfg.bufCap = true → off ≠ 0x008 →
    (hostWrite (hostWrite s off n v) off n v).block = (hostWrite s off n v).block

/-- R72: while busy, writes to CMD, LEN, SEED and the buffer window are dropped with OVR <- 1 and answered ok; writes
to STATUS and to read-only registers act as when idle. -/
def Obligations.WritesWhileBusyAreDropped : Prop :=
  (∀ (s : State) (off n : Nat) (v : Word), s.busy = true → busError s.cfg off n = false →
    off = 0x008 ∨ off = 0x010 ∨ off = 0x014 ∨ 0x100 ≤ off →
    hostWrite s off n v = { s with ovr := true, responses := .ok :: s.responses }) ∧
  ∀ (s : State) (v : Word) (b : Bool), ∀ off ∈ [0x000, 0x004, 0x00C, 0x018, 0x040, 0x044, 0x048, 0x04C, 0x050, 0x054,
      0x058, 0x05C, 0x060, 0x064, 0x068, 0x06C],
    hostWrite { s with busy := b } off 4 v = { hostWrite s off 4 v with busy := b }

/-- R73: while busy, each result register reads as a fresh draw, STATUS has its drawn bits from it and the others as
they are, the trailer bytes of a pending UPDATE are drawn, and every other location reads as it is.  The draw is the
opaque `Config.draw` at the counter `draws`, a form the model chose (assumption log 3); nothing is said of its value. -/
def Obligations.ReadsWhileBusy : Prop :=
  ∀ s : State, s.busy = true →
    let answer (x : Word) : State := { s with draws := s.draws + 1, responses := .value x :: s.responses }
    (∀ off ∈ [0x018, 0x040, 0x044, 0x048, 0x04C, 0x050, 0x054, 0x058, 0x05C, 0x060, 0x064, 0x068, 0x06C],
      hostRead s off 4 = answer (Config.draw s.draws)) ∧
    (∀ p ∈ ([(0x000, 0x44535243), (0x004, BitVec.ofNat 32 s.cfg.bufCap), (0x008, 0), (0x010, s.len.setWidth 32),
        (0x014, s.seed.setWidth 32)] : List (Nat × Word)), hostRead s p.1 4 = answer p.2) ∧
    (∃ x : Word, hostRead s 0x00C 4 = answer x ∧ ∀ k < 32, x.getLsbD k =
      if k = 2 ∨ k = 3 ∨ (8 ≤ k ∧ k < 12) then (Config.draw s.draws).getLsbD k else s.statusWord.getLsbD k) ∧
    (∀ off n, 0x100 ≤ off → busError s.cfg off n = false →
      ∃ x : Word, hostRead s off n = answer x ∧ x.toNat < 2 ^ (8 * n) ∧ ∀ k < n,
        let drawn : Prop := (∃ w sel, s.pending = some w ∧ classify w = some (.update sel)) ∧ 4 ≤ s.len.toNat ∧
          s.len.toNat ≤ s.cfg.bufCap ∧ s.len.toNat - 4 ≤ off - 0x100 + k ∧ off - 0x100 + k < s.len.toNat
        (drawn → x.extractLsb' (8 * k) 8 = (Config.draw s.draws).extractLsb' (8 * k) 8) ∧
        (¬drawn → x.extractLsb' (8 * k) 8 = s.buf.read (off - 0x100 + k)))

/-- R76: once a STATUS read has returned BUSY = 0, no later read returns a draw: it returns what the block holds. -/
def Obligations.NoDrawAfterBusyReadsZero : Prop :=
  ∀ (s : State) (x : Word), (hostRead s 0x00C 4).responses.head? = some (.value x) → x.getLsbD 0 = false →
    ∀ (off n : Nat) (d d' : Word),
      (hostRead s 0x00C 4).readValue d off n = s.readValue d' off n ∧ (hostRead s 0x00C 4).block = s.block

/-- R100: WAIT is the 32-bit read of STATUS at 0x00C, with its answer and draw, and it stands while the value read has
BUSY = 1 and is over when it has BUSY = 0 (that it is one event which repeats is the model's choice, assumption log
12). -/
def Obligations.WaitEndsWhenBusyReadsZero : Prop :=
  ∀ (s : State) (rest : List Input), s.inputs = .wait :: rest →
    ∃ x : Word, (hostRead s 0x00C 4).responses = .value x :: s.responses ∧ x.getLsbD 0 = s.busy ∧
      hostStep s = { hostRead s 0x00C 4 with inputs := if x.getLsbD 0 = true then .wait :: rest else rest } ∧
      (hostStep s).block = s.block

/-- R14, R73: free values and the host's view never reach the block: two machines whose blocks, waiting events and
order agree go on agreeing, whatever was answered and drawn before. -/
def Obligations.DrawsNeverReachTheBlock : Prop :=
  ∀ s t s' : State, s.block = t.block → s.inputs = t.inputs → s.schedule = t.schedule → step s = .next s' →
    ∃ t', step t = .next t' ∧ s'.block = t'.block ∧ s'.inputs = t'.inputs ∧ s'.schedule = t'.schedule

/-! ## Reset -/

/-- R231: every register and flag after reset, for every instance and every contents of BUF. -/
def Obligations.ResetValues : Prop :=
  ∀ (cfg : Config) (m : Memory), cfg.wf = true →
    let s := State.resetOf cfg m
    s.flags = (false, false, false, false, false, 0) ∧ s.pending = none ∧ s.buf = m ∧ s.len = 0 ∧ s.seed = 0xA1 ∧
    s.crcResult = 0 ∧
    (∀ r ∈ [s.rpt.sticks, s.rpt.trig, s.rpt.buttons, s.rpt.gyroX, s.rpt.gyroY, s.rpt.gyroZ, s.rpt.accelX, s.rpt.accelY,
      s.rpt.accelZ, s.rpt.timestamp, s.rpt.touch0, s.rpt.touch1], r = 0) ∧
    hostRead s 0x000 4 = s.respond (.value 0x44535243) ∧
    (∃ x : Word, hostRead s 0x004 4 = s.respond (.value x) ∧ x.toNat = cfg.bufCap) ∧
    hostRead s 0x008 4 = s.respond (.value 0)

/-- R230, R232, R233: the reset input, busy or not, abandons the command and leaves every register at its reset value;
BUF may hold anything afterwards, and every contents is possible (that reset is one event which carries the contents
is the model's choice, assumption log 5). -/
def Obligations.ResetInputAbandonsTheCommand : Prop :=
  ∀ (s : State) (contents : List Byte) (rest : List Input), s.buf.wf s.cfg.bufCap = true →
    s.inputs = .reset contents :: rest →
    (∃ m : Memory, hostStep s =
        { State.resetOf s.cfg m with
          inputs := rest, schedule := s.schedule, responses := s.responses, draws := s.draws } ∧
      m.wf s.cfg.bufCap = true ∧
      ∀ a < s.cfg.bufCap, m.read a = if h : a < contents.length then contents[a] else s.buf.read a) ∧
    ∀ want : Memory, want.wf s.cfg.bufCap = true → ∃ c : List Byte,
      (hostStep { s with inputs := .reset c :: rest }).buf = want
end

