-- ==== Sys2Proof/Laws/Memory.lean ====
section
/-! SUPPORT. BUF: a read after a write, every operation keeps the canonical form, and multi-byte reads and writes in
terms of single bytes. -/
namespace Sys2Proof.Machine

/-! ## One byte -/

theorem Memory.wfFrom_read_below {cap lo : Nat} {m : Memory} (h : m.wfFrom cap lo = true) {a : Nat} (ha : a < lo) :
    m.read a = unlistedByte := by
  induction m generalizing lo with
  | nil => rfl
  | cons p m ih =>
    obtain ⟨c, x⟩ := p
    simp only [Memory.wfFrom, Bool.and_eq_true, decide_eq_true_eq] at h
    obtain ⟨⟨⟨hlo, -⟩, -⟩, hm⟩ := h
    rw [Memory.read, if_neg (by omega)]
    exact ih hm (by omega)

theorem Memory.wfFrom_read_above {cap lo : Nat} {m : Memory} (h : m.wfFrom cap lo = true) {a : Nat} (ha : cap ≤ a) :
    m.read a = unlistedByte := by
  induction m generalizing lo with
  | nil => rfl
  | cons p m ih =>
    obtain ⟨c, x⟩ := p
    simp only [Memory.wfFrom, Bool.and_eq_true, decide_eq_true_eq] at h
    obtain ⟨⟨⟨-, hc⟩, -⟩, hm⟩ := h
    rw [Memory.read, if_neg (by omega)]
    exact ih hm

theorem Memory.wfFrom_mono {cap lo lo' : Nat} {m : Memory} (hle : lo' ≤ lo) (h : m.wfFrom cap lo = true) :
    m.wfFrom cap lo' = true := by
  cases m with
  | nil => rfl
  | cons p m =>
    simp only [Memory.wfFrom, Bool.and_eq_true, decide_eq_true_eq] at h ⊢
    exact ⟨⟨⟨by omega, h.1.1.2⟩, h.1.2⟩, h.2⟩

/-- The read of one byte after the write of one byte, in a memory in canonical form. -/
theorem Memory.read_write_from {cap lo : Nat} {m : Memory} (h : m.wfFrom cap lo = true) (a b : Nat) (x : Byte) :
    (m.write a x).read b = if b = a then x else m.read b := by
  induction m generalizing lo with
  | nil =>
    simp only [Memory.write]
    split
    · simp_all [Memory.read]
    · simp only [Memory.read, eq_comm (a := a)]
  | cons p m ih =>
    obtain ⟨c, y⟩ := p
    have hm := h
    simp only [Memory.wfFrom, Bool.and_eq_true, decide_eq_true_eq] at hm
    have below : ∀ {d}, d < c + 1 → Memory.read m d = unlistedByte := fun hd => Memory.wfFrom_read_below hm.2 hd
    rcases Nat.lt_trichotomy a c with hlt | heq | hgt
    · by_cases hx : x = unlistedByte
      · by_cases hb : b = a
        · simp [Memory.write, Memory.read, hlt, hx, hb, hlt.ne', below (Nat.lt_succ_of_lt hlt)]
        · simp [Memory.write, hlt, hx, hb]
      · simp [Memory.write, Memory.read, hlt, hx, eq_comm (a := a)]
    · subst heq
      by_cases hx : x = unlistedByte
      · by_cases hb : b = a
        · simp [Memory.write, hx, hb, below (Nat.lt_succ_self a)]
        · simp [Memory.write, Memory.read, hx, hb, eq_comm (a := a)]
      · by_cases hb : b = a
        · simp [Memory.write, Memory.read, hx, hb]
        · simp [Memory.write, Memory.read, hx, hb, eq_comm (a := a)]
    · have h1 : ¬a < c := by omega
      have h2 : ¬a = c := by omega
      by_cases hb : b = c
      · subst hb
        simp [Memory.write, Memory.read, h1, h2, eq_comm (a := b)]
      · simp [Memory.write, Memory.read, h1, h2, ih hm.2, eq_comm (a := c), hb]

theorem Memory.read_write {cap : Nat} {m : Memory} (h : m.wf cap = true) (a b : Nat) (x : Byte) :
    (m.write a x).read b = if b = a then x else m.read b :=
  Memory.read_write_from h a b x

theorem Memory.wfFrom_write {cap lo : Nat} {m : Memory} (h : m.wfFrom cap lo = true) {a : Nat} (hlo : lo ≤ a)
    (ha : a < cap) (x : Byte) : (m.write a x).wfFrom cap lo = true := by
  induction m generalizing lo with
  | nil =>
    simp only [Memory.write]
    split
    · rfl
    · simp_all [Memory.wfFrom]
  | cons p m ih =>
    obtain ⟨c, y⟩ := p
    have hm := h
    simp only [Memory.wfFrom, Bool.and_eq_true, decide_eq_true_eq] at hm
    obtain ⟨⟨⟨h0, hc⟩, hy⟩, hm⟩ := hm
    simp only [Memory.write]
    split_ifs with h1 h2 h3 h4
    · exact h
    · simp only [Memory.wfFrom, Bool.and_eq_true, decide_eq_true_eq]
      exact ⟨⟨⟨hlo, ha⟩, h2⟩, ⟨⟨by omega, hc⟩, hy⟩, hm⟩
    · exact Memory.wfFrom_mono (by omega) hm
    · simp only [Memory.wfFrom, Bool.and_eq_true, decide_eq_true_eq]
      exact ⟨⟨⟨hlo, ha⟩, h4⟩, Memory.wfFrom_mono (by omega) hm⟩
    · simp only [Memory.wfFrom, Bool.and_eq_true, decide_eq_true_eq]
      exact ⟨⟨⟨h0, hc⟩, hy⟩, ih hm (by omega)⟩

/-- A write below the capacity keeps the canonical form. -/
theorem Memory.wf_write {cap : Nat} {m : Memory} (h : m.wf cap = true) {a : Nat} (ha : a < cap) (x : Byte) :
    (m.write a x).wf cap = true :=
  Memory.wfFrom_write h (Nat.zero_le a) ha x

theorem Memory.wf_nil (cap : Nat) : Memory.wf cap ([] : Memory) = true := rfl

/-- Two canonical memories that read alike are equal lists. -/
theorem Memory.wfFrom_ext {cap lo : Nat} {m n : Memory} (hm : m.wfFrom cap lo = true) (hn : n.wfFrom cap lo = true)
    (h : ∀ a, m.read a = n.read a) : m = n := by
  induction m generalizing lo n with
  | nil =>
    cases n with
    | nil => rfl
    | cons q n =>
      obtain ⟨d, y⟩ := q
      simp only [Memory.wfFrom, Bool.and_eq_true, decide_eq_true_eq] at hn
      exact absurd (by simpa [Memory.read] using (h d).symm) hn.1.2
  | cons p m ih =>
    obtain ⟨c, x⟩ := p
    have hm' := hm
    simp only [Memory.wfFrom, Bool.and_eq_true, decide_eq_true_eq] at hm'
    cases n with
    | nil => exact absurd (by simpa [Memory.read] using h c) hm'.1.2
    | cons q n =>
      obtain ⟨d, y⟩ := q
      have hn' := hn
      simp only [Memory.wfFrom, Bool.and_eq_true, decide_eq_true_eq] at hn'
      have hcd : c = d := by
        rcases Nat.lt_trichotomy c d with hlt | heq | hgt
        · have := h c
          rw [Memory.read, if_pos rfl, Memory.read, if_neg (by omega),
            Memory.wfFrom_read_below hn'.2 (by omega)] at this
          exact absurd this hm'.1.2
        · exact heq
        · have := h d
          rw [Memory.read, if_neg (by omega), Memory.read, if_pos rfl,
            Memory.wfFrom_read_below hm'.2 (by omega)] at this
          exact absurd this.symm hn'.1.2
      subst hcd
      have hxy : x = y := by simpa [Memory.read] using h c
      subst hxy
      rw [ih hm'.2 hn'.2 (fun a => ?_)]
      by_cases ha : a = c
      · rw [ha, Memory.wfFrom_read_below hm'.2 (by omega), Memory.wfFrom_read_below hn'.2 (by omega)]
      · have := h a
        rwa [Memory.read, if_neg (fun e => ha e.symm), Memory.read, if_neg (fun e => ha e.symm)] at this

theorem Memory.wf_ext {cap : Nat} {m n : Memory} (hm : m.wf cap = true) (hn : n.wf cap = true)
    (h : ∀ a, m.read a = n.read a) : m = n :=
  Memory.wfFrom_ext hm hn h

/-! ## Several bytes -/

theorem wf_memWrite {cap : Nat} {m : Memory} (h : m.wf cap = true) {a n : Nat} (ha : a + n ≤ cap) (v : Word) :
    (memWrite m a n v).wf cap = true := by
  induction n generalizing m a v with
  | zero => exact h
  | succ n ih =>
    rw [memWrite]
    exact ih (Memory.wf_write h (by omega) _) (by omega) _

/-- A byte outside the written range reads as before. -/
theorem read_memWrite_outside {cap : Nat} {m : Memory} (h : m.wf cap = true) {a n : Nat} (hn : a + n ≤ cap) (v : Word)
    {b : Nat} (hb : b < a ∨ a + n ≤ b) : (memWrite m a n v).read b = m.read b := by
  induction n generalizing m a v with
  | zero => rfl
  | succ n ih =>
    rw [memWrite, ih (Memory.wf_write h (by omega) _) (by omega) _ (by omega), Memory.read_write h, if_neg (by omega)]

/-- The byte at `a + k` of a written range is `v[8k+7:8k]` (R14). -/
theorem read_memWrite_inside {cap : Nat} {m : Memory} (h : m.wf cap = true) {a n : Nat} (hn : a + n ≤ cap) (v : Word)
    {k : Nat} (hk : k < n) : (memWrite m a n v).read (a + k) = (v >>> (8 * k)).setWidth 8 := by
  induction n generalizing m a v k with
  | zero => omega
  | succ n ih =>
    rw [memWrite]
    cases k with
    | zero =>
      rw [read_memWrite_outside (Memory.wf_write h (by omega) _) (by omega) _ (Or.inl (by omega)), Memory.read_write h]
      simp
    | succ k =>
      have e : a + (k + 1) = a + 1 + k := by omega
      rw [e, ih (Memory.wf_write h (by omega) _) (by omega) _ (by omega), ← BitVec.shiftRight_add]
      congr 2
      omega

theorem wf_overlay {cap : Nat} {m : Memory} (h : m.wf cap = true) (a : Nat) (bs : List Byte) :
    (overlay cap m a bs).wf cap = true := by
  induction bs generalizing m a with
  | nil => exact h
  | cons b bs ih =>
    rw [overlay]
    split
    · exact ih (Memory.wf_write h ‹_› b) _
    · exact h

/-- What BUF holds after `bs` is laid over it from `a` on. -/
theorem read_overlay {cap : Nat} {m : Memory} (h : m.wf cap = true) (a : Nat) (bs : List Byte) {b : Nat}
    (hb : b < cap) :
    (overlay cap m a bs).read b = if a ≤ b then bs.getD (b - a) (m.read b) else m.read b := by
  induction bs generalizing m a with
  | nil => simp [overlay]
  | cons x bs ih =>
    rw [overlay]
    split
    · rw [ih (Memory.wf_write h ‹_› x), Memory.read_write h]
      rcases Nat.lt_trichotomy a b with hlt | heq | hgt
      · have e : b - a = (b - (a + 1)) + 1 := by omega
        rw [if_pos (by omega), if_neg (by omega), if_pos (by omega), e]
        simp
      · subst heq
        simp
      · rw [if_neg (by omega), if_neg (by omega), if_neg (by omega)]
    · rw [if_neg (by omega)]

theorem memRead_congr {m n : Memory} {a k : Nat} (h : ∀ b, a ≤ b → b < a + k → m.read b = n.read b) :
    memRead m a k = memRead n a k := by
  induction k generalizing a with
  | zero => rfl
  | succ k ih =>
    rw [memRead, memRead, h a (le_refl a) (by omega), ih fun b hb hb' => h b (by omega) (by omega)]

theorem bytesFrom_congr {m n : Memory} {a k : Nat} (h : ∀ b, a ≤ b → b < a + k → m.read b = n.read b) :
    bytesFrom m a k = bytesFrom n a k := by
  induction k generalizing a with
  | zero => rfl
  | succ k ih =>
    rw [bytesFrom, bytesFrom, h a (le_refl a) (by omega), ih fun b hb hb' => h b (by omega) (by omega)]

@[simp] theorem length_bytesFrom (m : Memory) (a n : Nat) : (bytesFrom m a n).length = n := by
  induction n generalizing a with
  | zero => rfl
  | succ n ih => simp [bytesFrom, ih]

theorem bytesFrom_add (m : Memory) (a n k : Nat) : bytesFrom m a (n + k) = bytesFrom m a n ++ bytesFrom m (a + n) k := by
  induction n generalizing a with
  | zero => simp [bytesFrom]
  | succ n ih =>
    have e : n + 1 + k = (n + k) + 1 := by omega
    have e' : a + (n + 1) = a + 1 + n := by omega
    rw [e, bytesFrom, ih, bytesFrom, e', List.cons_append]

/-! ## Bytes and numbers -/

/-- A little-endian number of `n` bytes is below 256^n. -/
theorem leNat_lt (m : Memory) (p n : Nat) : leNat m p n < 256 ^ n := by
  induction n generalizing p with
  | zero => simp [leNat]
  | succ n ih =>
    have := ih (p + 1)
    have := (m.read p).isLt
    rw [leNat, pow_succ]
    omega

/-- `MemRead` of at most four bytes is their little-endian number (R12, R14). -/
theorem toNat_memRead (m : Memory) (p : Nat) {n : Nat} (hn : n ≤ 4) : (memRead m p n).toNat = leNat m p n := by
  induction n generalizing p with
  | zero => rfl
  | succ n ih =>
    have hb := (m.read p).isLt
    have h3 : leNat m (p + 1) n < 256 ^ 3 :=
      lt_of_lt_of_le (leNat_lt m (p + 1) n) (Nat.pow_le_pow_right (by decide) (by omega))
    rw [memRead, leNat, BitVec.toNat_or, BitVec.toNat_shiftLeft, ih (p + 1) (by omega), BitVec.toNat_setWidth,
      Nat.mod_eq_of_lt (by omega), Nat.shiftLeft_eq, Nat.mod_eq_of_lt (by omega), Nat.or_comm, ← Nat.shiftLeft_eq,
      ← Nat.shiftLeft_add_eq_or_of_lt hb, Nat.shiftLeft_eq]
    omega

end Sys2Proof.Machine
end

