-- ==== Sys2Proof/Laws/State.lean ====
section
/-! SUPPORT. What each named update does to each field of the state, so that no later proof unfolds a record update,
and what the block's part of a state (`State.block`) sees of it. -/
namespace Sys2Proof.Machine

/-! ## `issue` -/

@[simp] theorem State.issue_cfg (s : State) (w : Word) : (s.issue w).cfg = s.cfg := rfl
@[simp] theorem State.issue_buf (s : State) (w : Word) : (s.issue w).buf = s.buf := rfl
@[simp] theorem State.issue_len (s : State) (w : Word) : (s.issue w).len = s.len := rfl
@[simp] theorem State.issue_seed (s : State) (w : Word) : (s.issue w).seed = s.seed := rfl
@[simp] theorem State.issue_crcResult (s : State) (w : Word) : (s.issue w).crcResult = s.crcResult := rfl
@[simp] theorem State.issue_busy (s : State) (w : Word) : (s.issue w).busy = true := rfl
@[simp] theorem State.issue_done (s : State) (w : Word) : (s.issue w).done = false := rfl
@[simp] theorem State.issue_crcOk (s : State) (w : Word) : (s.issue w).crcOk = s.crcOk := rfl
@[simp] theorem State.issue_reportValid (s : State) (w : Word) : (s.issue w).reportValid = s.reportValid := rfl
@[simp] theorem State.issue_ovr (s : State) (w : Word) : (s.issue w).ovr = s.ovr := rfl
@[simp] theorem State.issue_errcode (s : State) (w : Word) : (s.issue w).errcode = s.errcode := rfl
@[simp] theorem State.issue_pending (s : State) (w : Word) : (s.issue w).pending = some w := rfl
@[simp] theorem State.issue_rpt (s : State) (w : Word) : (s.issue w).rpt = s.rpt := rfl
@[simp] theorem State.issue_inputs (s : State) (w : Word) : (s.issue w).inputs = s.inputs := rfl
@[simp] theorem State.issue_schedule (s : State) (w : Word) : (s.issue w).schedule = s.schedule := rfl
@[simp] theorem State.issue_responses (s : State) (w : Word) : (s.issue w).responses = s.responses := rfl
@[simp] theorem State.issue_draws (s : State) (w : Word) : (s.issue w).draws = s.draws := rfl

/-! ## `dropWrite` -/

@[simp] theorem State.dropWrite_cfg (s : State) : (s.dropWrite).cfg = s.cfg := rfl
@[simp] theorem State.dropWrite_buf (s : State) : (s.dropWrite).buf = s.buf := rfl
@[simp] theorem State.dropWrite_len (s : State) : (s.dropWrite).len = s.len := rfl
@[simp] theorem State.dropWrite_seed (s : State) : (s.dropWrite).seed = s.seed := rfl
@[simp] theorem State.dropWrite_crcResult (s : State) : (s.dropWrite).crcResult = s.crcResult := rfl
@[simp] theorem State.dropWrite_busy (s : State) : (s.dropWrite).busy = s.busy := rfl
@[simp] theorem State.dropWrite_done (s : State) : (s.dropWrite).done = s.done := rfl
@[simp] theorem State.dropWrite_crcOk (s : State) : (s.dropWrite).crcOk = s.crcOk := rfl
@[simp] theorem State.dropWrite_reportValid (s : State) : (s.dropWrite).reportValid = s.reportValid := rfl
@[simp] theorem State.dropWrite_ovr (s : State) : (s.dropWrite).ovr = true := rfl
@[simp] theorem State.dropWrite_errcode (s : State) : (s.dropWrite).errcode = s.errcode := rfl
@[simp] theorem State.dropWrite_pending (s : State) : (s.dropWrite).pending = s.pending := rfl
@[simp] theorem State.dropWrite_rpt (s : State) : (s.dropWrite).rpt = s.rpt := rfl
@[simp] theorem State.dropWrite_inputs (s : State) : (s.dropWrite).inputs = s.inputs := rfl
@[simp] theorem State.dropWrite_schedule (s : State) : (s.dropWrite).schedule = s.schedule := rfl
@[simp] theorem State.dropWrite_responses (s : State) : (s.dropWrite).responses = s.responses := rfl
@[simp] theorem State.dropWrite_draws (s : State) : (s.dropWrite).draws = s.draws := rfl

/-! ## `complete` -/

@[simp] theorem State.complete_cfg (s : State) (e : ErrCode) (v : Bool) : (s.complete e v).cfg = s.cfg := rfl
@[simp] theorem State.complete_buf (s : State) (e : ErrCode) (v : Bool) : (s.complete e v).buf = s.buf := rfl
@[simp] theorem State.complete_len (s : State) (e : ErrCode) (v : Bool) : (s.complete e v).len = s.len := rfl
@[simp] theorem State.complete_seed (s : State) (e : ErrCode) (v : Bool) : (s.complete e v).seed = s.seed := rfl
@[simp] theorem State.complete_crcResult (s : State) (e : ErrCode) (v : Bool) : (s.complete e v).crcResult = s.crcResult := rfl
@[simp] theorem State.complete_busy (s : State) (e : ErrCode) (v : Bool) : (s.complete e v).busy = false := rfl
@[simp] theorem State.complete_done (s : State) (e : ErrCode) (v : Bool) : (s.complete e v).done = true := rfl
@[simp] theorem State.complete_crcOk (s : State) (e : ErrCode) (v : Bool) : (s.complete e v).crcOk = v := rfl
@[simp] theorem State.complete_reportValid (s : State) (e : ErrCode) (v : Bool) : (s.complete e v).reportValid = s.reportValid := rfl
@[simp] theorem State.complete_ovr (s : State) (e : ErrCode) (v : Bool) : (s.complete e v).ovr = s.ovr := rfl
@[simp] theorem State.complete_errcode (s : State) (e : ErrCode) (v : Bool) : (s.complete e v).errcode = e.code := rfl
@[simp] theorem State.complete_pending (s : State) (e : ErrCode) (v : Bool) : (s.complete e v).pending = none := rfl
@[simp] theorem State.complete_rpt (s : State) (e : ErrCode) (v : Bool) : (s.complete e v).rpt = s.rpt := rfl
@[simp] theorem State.complete_inputs (s : State) (e : ErrCode) (v : Bool) : (s.complete e v).inputs = s.inputs := rfl
@[simp] theorem State.complete_schedule (s : State) (e : ErrCode) (v : Bool) : (s.complete e v).schedule = s.schedule := rfl
@[simp] theorem State.complete_responses (s : State) (e : ErrCode) (v : Bool) : (s.complete e v).responses = s.responses := rfl
@[simp] theorem State.complete_draws (s : State) (e : ErrCode) (v : Bool) : (s.complete e v).draws = s.draws := rfl

/-! ## `respond` -/

@[simp] theorem State.respond_cfg (s : State) (r : Response) : (s.respond r).cfg = s.cfg := rfl
@[simp] theorem State.respond_buf (s : State) (r : Response) : (s.respond r).buf = s.buf := rfl
@[simp] theorem State.respond_len (s : State) (r : Response) : (s.respond r).len = s.len := rfl
@[simp] theorem State.respond_seed (s : State) (r : Response) : (s.respond r).seed = s.seed := rfl
@[simp] theorem State.respond_crcResult (s : State) (r : Response) : (s.respond r).crcResult = s.crcResult := rfl
@[simp] theorem State.respond_busy (s : State) (r : Response) : (s.respond r).busy = s.busy := rfl
@[simp] theorem State.respond_done (s : State) (r : Response) : (s.respond r).done = s.done := rfl
@[simp] theorem State.respond_crcOk (s : State) (r : Response) : (s.respond r).crcOk = s.crcOk := rfl
@[simp] theorem State.respond_reportValid (s : State) (r : Response) : (s.respond r).reportValid = s.reportValid := rfl
@[simp] theorem State.respond_ovr (s : State) (r : Response) : (s.respond r).ovr = s.ovr := rfl
@[simp] theorem State.respond_errcode (s : State) (r : Response) : (s.respond r).errcode = s.errcode := rfl
@[simp] theorem State.respond_pending (s : State) (r : Response) : (s.respond r).pending = s.pending := rfl
@[simp] theorem State.respond_rpt (s : State) (r : Response) : (s.respond r).rpt = s.rpt := rfl
@[simp] theorem State.respond_inputs (s : State) (r : Response) : (s.respond r).inputs = s.inputs := rfl
@[simp] theorem State.respond_schedule (s : State) (r : Response) : (s.respond r).schedule = s.schedule := rfl
@[simp] theorem State.respond_responses (s : State) (r : Response) : (s.respond r).responses = r :: s.responses := rfl
@[simp] theorem State.respond_draws (s : State) (r : Response) : (s.respond r).draws = s.draws := rfl

/-! ## `writeStatus` -/

@[simp] theorem State.writeStatus_cfg (s : State) (v : Word) : (s.writeStatus v).cfg = s.cfg := rfl
@[simp] theorem State.writeStatus_buf (s : State) (v : Word) : (s.writeStatus v).buf = s.buf := rfl
@[simp] theorem State.writeStatus_len (s : State) (v : Word) : (s.writeStatus v).len = s.len := rfl
@[simp] theorem State.writeStatus_seed (s : State) (v : Word) : (s.writeStatus v).seed = s.seed := rfl
@[simp] theorem State.writeStatus_crcResult (s : State) (v : Word) : (s.writeStatus v).crcResult = s.crcResult := rfl
@[simp] theorem State.writeStatus_busy (s : State) (v : Word) : (s.writeStatus v).busy = s.busy := rfl
@[simp] theorem State.writeStatus_done (s : State) (v : Word) : (s.writeStatus v).done = (s.done && !v.getLsbD 1) := rfl
@[simp] theorem State.writeStatus_crcOk (s : State) (v : Word) : (s.writeStatus v).crcOk = s.crcOk := rfl
@[simp] theorem State.writeStatus_reportValid (s : State) (v : Word) : (s.writeStatus v).reportValid = s.reportValid := rfl
@[simp] theorem State.writeStatus_ovr (s : State) (v : Word) : (s.writeStatus v).ovr = (s.ovr && !v.getLsbD 4) := rfl
@[simp] theorem State.writeStatus_errcode (s : State) (v : Word) : (s.writeStatus v).errcode = s.errcode := rfl
@[simp] theorem State.writeStatus_pending (s : State) (v : Word) : (s.writeStatus v).pending = s.pending := rfl
@[simp] theorem State.writeStatus_rpt (s : State) (v : Word) : (s.writeStatus v).rpt = s.rpt := rfl
@[simp] theorem State.writeStatus_inputs (s : State) (v : Word) : (s.writeStatus v).inputs = s.inputs := rfl
@[simp] theorem State.writeStatus_schedule (s : State) (v : Word) : (s.writeStatus v).schedule = s.schedule := rfl
@[simp] theorem State.writeStatus_responses (s : State) (v : Word) : (s.writeStatus v).responses = s.responses := rfl
@[simp] theorem State.writeStatus_draws (s : State) (v : Word) : (s.writeStatus v).draws = s.draws := rfl

/-! ## `decodeFails` -/

@[simp] theorem State.decodeFails_cfg (s : State) (e : ErrCode) : (s.decodeFails e).cfg = s.cfg := rfl
@[simp] theorem State.decodeFails_buf (s : State) (e : ErrCode) : (s.decodeFails e).buf = s.buf := rfl
@[simp] theorem State.decodeFails_len (s : State) (e : ErrCode) : (s.decodeFails e).len = s.len := rfl
@[simp] theorem State.decodeFails_seed (s : State) (e : ErrCode) : (s.decodeFails e).seed = s.seed := rfl
@[simp] theorem State.decodeFails_crcResult (s : State) (e : ErrCode) : (s.decodeFails e).crcResult = s.crcResult := rfl
@[simp] theorem State.decodeFails_busy (s : State) (e : ErrCode) : (s.decodeFails e).busy = false := rfl
@[simp] theorem State.decodeFails_done (s : State) (e : ErrCode) : (s.decodeFails e).done = true := rfl
@[simp] theorem State.decodeFails_crcOk (s : State) (e : ErrCode) : (s.decodeFails e).crcOk = false := rfl
@[simp] theorem State.decodeFails_reportValid (s : State) (e : ErrCode) : (s.decodeFails e).reportValid = false := rfl
@[simp] theorem State.decodeFails_ovr (s : State) (e : ErrCode) : (s.decodeFails e).ovr = s.ovr := rfl
@[simp] theorem State.decodeFails_errcode (s : State) (e : ErrCode) : (s.decodeFails e).errcode = e.code := rfl
@[simp] theorem State.decodeFails_pending (s : State) (e : ErrCode) : (s.decodeFails e).pending = none := rfl
@[simp] theorem State.decodeFails_rpt (s : State) (e : ErrCode) : (s.decodeFails e).rpt = s.rpt := rfl
@[simp] theorem State.decodeFails_inputs (s : State) (e : ErrCode) : (s.decodeFails e).inputs = s.inputs := rfl
@[simp] theorem State.decodeFails_schedule (s : State) (e : ErrCode) : (s.decodeFails e).schedule = s.schedule := rfl
@[simp] theorem State.decodeFails_responses (s : State) (e : ErrCode) : (s.decodeFails e).responses = s.responses := rfl
@[simp] theorem State.decodeFails_draws (s : State) (e : ErrCode) : (s.decodeFails e).draws = s.draws := rfl

/-! ## `decodeSucceeds` -/

@[simp] theorem State.decodeSucceeds_cfg (s : State) : (s.decodeSucceeds).cfg = s.cfg := rfl
@[simp] theorem State.decodeSucceeds_buf (s : State) : (s.decodeSucceeds).buf = s.buf := rfl
@[simp] theorem State.decodeSucceeds_len (s : State) : (s.decodeSucceeds).len = s.len := rfl
@[simp] theorem State.decodeSucceeds_seed (s : State) : (s.decodeSucceeds).seed = s.seed := rfl
@[simp] theorem State.decodeSucceeds_crcResult (s : State) : (s.decodeSucceeds).crcResult = s.crcResult := rfl
@[simp] theorem State.decodeSucceeds_busy (s : State) : (s.decodeSucceeds).busy = false := rfl
@[simp] theorem State.decodeSucceeds_done (s : State) : (s.decodeSucceeds).done = true := rfl
@[simp] theorem State.decodeSucceeds_crcOk (s : State) : (s.decodeSucceeds).crcOk = false := rfl
@[simp] theorem State.decodeSucceeds_reportValid (s : State) : (s.decodeSucceeds).reportValid = true := rfl
@[simp] theorem State.decodeSucceeds_ovr (s : State) : (s.decodeSucceeds).ovr = s.ovr := rfl
@[simp] theorem State.decodeSucceeds_errcode (s : State) : (s.decodeSucceeds).errcode = 0 := rfl
@[simp] theorem State.decodeSucceeds_pending (s : State) : (s.decodeSucceeds).pending = none := rfl
@[simp] theorem State.decodeSucceeds_rpt (s : State) : (s.decodeSucceeds).rpt = unpackReport s.buf := rfl
@[simp] theorem State.decodeSucceeds_inputs (s : State) : (s.decodeSucceeds).inputs = s.inputs := rfl
@[simp] theorem State.decodeSucceeds_schedule (s : State) : (s.decodeSucceeds).schedule = s.schedule := rfl
@[simp] theorem State.decodeSucceeds_responses (s : State) : (s.decodeSucceeds).responses = s.responses := rfl
@[simp] theorem State.decodeSucceeds_draws (s : State) : (s.decodeSucceeds).draws = s.draws := rfl

/-! ## `stampTrailer` -/

@[simp] theorem State.stampTrailer_cfg (s : State) (c : Word) : (s.stampTrailer c).cfg = s.cfg := rfl
@[simp] theorem State.stampTrailer_buf (s : State) (c : Word) : (s.stampTrailer c).buf = memWrite s.buf s.trailerAt 4 c := rfl
@[simp] theorem State.stampTrailer_len (s : State) (c : Word) : (s.stampTrailer c).len = s.len := rfl
@[simp] theorem State.stampTrailer_seed (s : State) (c : Word) : (s.stampTrailer c).seed = s.seed := rfl
@[simp] theorem State.stampTrailer_crcResult (s : State) (c : Word) : (s.stampTrailer c).crcResult = c := rfl
@[simp] theorem State.stampTrailer_busy (s : State) (c : Word) : (s.stampTrailer c).busy = false := rfl
@[simp] theorem State.stampTrailer_done (s : State) (c : Word) : (s.stampTrailer c).done = true := rfl
@[simp] theorem State.stampTrailer_crcOk (s : State) (c : Word) : (s.stampTrailer c).crcOk = false := rfl
@[simp] theorem State.stampTrailer_reportValid (s : State) (c : Word) : (s.stampTrailer c).reportValid = s.reportValid := rfl
@[simp] theorem State.stampTrailer_ovr (s : State) (c : Word) : (s.stampTrailer c).ovr = s.ovr := rfl
@[simp] theorem State.stampTrailer_errcode (s : State) (c : Word) : (s.stampTrailer c).errcode = 0 := rfl
@[simp] theorem State.stampTrailer_pending (s : State) (c : Word) : (s.stampTrailer c).pending = none := rfl
@[simp] theorem State.stampTrailer_rpt (s : State) (c : Word) : (s.stampTrailer c).rpt = s.rpt := rfl
@[simp] theorem State.stampTrailer_inputs (s : State) (c : Word) : (s.stampTrailer c).inputs = s.inputs := rfl
@[simp] theorem State.stampTrailer_schedule (s : State) (c : Word) : (s.stampTrailer c).schedule = s.schedule := rfl
@[simp] theorem State.stampTrailer_responses (s : State) (c : Word) : (s.stampTrailer c).responses = s.responses := rfl
@[simp] theorem State.stampTrailer_draws (s : State) (c : Word) : (s.stampTrailer c).draws = s.draws := rfl

/-! ## `compareTrailer` -/

@[simp] theorem State.compareTrailer_cfg (s : State) (c : Word) : (s.compareTrailer c).cfg = s.cfg := by
  unfold State.compareTrailer; split <;> rfl
@[simp] theorem State.compareTrailer_buf (s : State) (c : Word) : (s.compareTrailer c).buf = s.buf := by
  unfold State.compareTrailer; split <;> rfl
@[simp] theorem State.compareTrailer_len (s : State) (c : Word) : (s.compareTrailer c).len = s.len := by
  unfold State.compareTrailer; split <;> rfl
@[simp] theorem State.compareTrailer_seed (s : State) (c : Word) : (s.compareTrailer c).seed = s.seed := by
  unfold State.compareTrailer; split <;> rfl
@[simp] theorem State.compareTrailer_crcResult (s : State) (c : Word) : (s.compareTrailer c).crcResult = c := by
  unfold State.compareTrailer; split <;> rfl
@[simp] theorem State.compareTrailer_busy (s : State) (c : Word) : (s.compareTrailer c).busy = false := by
  unfold State.compareTrailer; split <;> rfl
@[simp] theorem State.compareTrailer_done (s : State) (c : Word) : (s.compareTrailer c).done = true := by
  unfold State.compareTrailer; split <;> rfl
@[simp] theorem State.compareTrailer_crcOk (s : State) (c : Word) : (s.compareTrailer c).crcOk = decide (c = le32 s.buf s.trailerAt) := by
  unfold State.compareTrailer; split <;> simp_all
@[simp] theorem State.compareTrailer_reportValid (s : State) (c : Word) : (s.compareTrailer c).reportValid = s.reportValid := by
  unfold State.compareTrailer; split <;> rfl
@[simp] theorem State.compareTrailer_ovr (s : State) (c : Word) : (s.compareTrailer c).ovr = s.ovr := by
  unfold State.compareTrailer; split <;> rfl
@[simp] theorem State.compareTrailer_errcode (s : State) (c : Word) : (s.compareTrailer c).errcode = (if c = le32 s.buf s.trailerAt then 0 else 3) := by
  unfold State.compareTrailer; split <;> simp_all [ErrCode.code]
@[simp] theorem State.compareTrailer_pending (s : State) (c : Word) : (s.compareTrailer c).pending = none := by
  unfold State.compareTrailer; split <;> rfl
@[simp] theorem State.compareTrailer_rpt (s : State) (c : Word) : (s.compareTrailer c).rpt = s.rpt := by
  unfold State.compareTrailer; split <;> rfl
@[simp] theorem State.compareTrailer_inputs (s : State) (c : Word) : (s.compareTrailer c).inputs = s.inputs := by
  unfold State.compareTrailer; split <;> rfl
@[simp] theorem State.compareTrailer_schedule (s : State) (c : Word) : (s.compareTrailer c).schedule = s.schedule := by
  unfold State.compareTrailer; split <;> rfl
@[simp] theorem State.compareTrailer_responses (s : State) (c : Word) : (s.compareTrailer c).responses = s.responses := by
  unfold State.compareTrailer; split <;> rfl
@[simp] theorem State.compareTrailer_draws (s : State) (c : Word) : (s.compareTrailer c).draws = s.draws := by
  unfold State.compareTrailer; split <;> rfl

/-! ## `takeTurn` -/

@[simp] theorem State.takeTurn_cfg (s : State) : (s.takeTurn).cfg = s.cfg := by
  unfold State.takeTurn; split <;> rfl
@[simp] theorem State.takeTurn_buf (s : State) : (s.takeTurn).buf = s.buf := by
  unfold State.takeTurn; split <;> rfl
@[simp] theorem State.takeTurn_len (s : State) : (s.takeTurn).len = s.len := by
  unfold State.takeTurn; split <;> rfl
@[simp] theorem State.takeTurn_seed (s : State) : (s.takeTurn).seed = s.seed := by
  unfold State.takeTurn; split <;> rfl
@[simp] theorem State.takeTurn_crcResult (s : State) : (s.takeTurn).crcResult = s.crcResult := by
  unfold State.takeTurn; split <;> rfl
@[simp] theorem State.takeTurn_busy (s : State) : (s.takeTurn).busy = s.busy := by
  unfold State.takeTurn; split <;> rfl
@[simp] theorem State.takeTurn_done (s : State) : (s.takeTurn).done = s.done := by
  unfold State.takeTurn; split <;> rfl
@[simp] theorem State.takeTurn_crcOk (s : State) : (s.takeTurn).crcOk = s.crcOk := by
  unfold State.takeTurn; split <;> rfl
@[simp] theorem State.takeTurn_reportValid (s : State) : (s.takeTurn).reportValid = s.reportValid := by
  unfold State.takeTurn; split <;> rfl
@[simp] theorem State.takeTurn_ovr (s : State) : (s.takeTurn).ovr = s.ovr := by
  unfold State.takeTurn; split <;> rfl
@[simp] theorem State.takeTurn_errcode (s : State) : (s.takeTurn).errcode = s.errcode := by
  unfold State.takeTurn; split <;> rfl
@[simp] theorem State.takeTurn_pending (s : State) : (s.takeTurn).pending = s.pending := by
  unfold State.takeTurn; split <;> rfl
@[simp] theorem State.takeTurn_rpt (s : State) : (s.takeTurn).rpt = s.rpt := by
  unfold State.takeTurn; split <;> rfl
@[simp] theorem State.takeTurn_inputs (s : State) : (s.takeTurn).inputs = s.inputs := by
  unfold State.takeTurn; split <;> rfl
@[simp] theorem State.takeTurn_schedule (s : State) : (s.takeTurn).schedule = (if s.contended then s.schedule.tail else s.schedule) := by
  unfold State.takeTurn; split <;> rfl
@[simp] theorem State.takeTurn_responses (s : State) : (s.takeTurn).responses = s.responses := by
  unfold State.takeTurn; split <;> rfl
@[simp] theorem State.takeTurn_draws (s : State) : (s.takeTurn).draws = s.draws := by
  unfold State.takeTurn; split <;> rfl

/-! ## `resetInput` -/

@[simp] theorem State.resetInput_cfg (s : State) (c : List Byte) : (s.resetInput c).cfg = s.cfg := rfl
@[simp] theorem State.resetInput_buf (s : State) (c : List Byte) : (s.resetInput c).buf = overlay s.cfg.bufCap s.buf 0 c := rfl
@[simp] theorem State.resetInput_len (s : State) (c : List Byte) : (s.resetInput c).len = 0 := rfl
@[simp] theorem State.resetInput_seed (s : State) (c : List Byte) : (s.resetInput c).seed = 0xA1 := rfl
@[simp] theorem State.resetInput_crcResult (s : State) (c : List Byte) : (s.resetInput c).crcResult = 0 := rfl
@[simp] theorem State.resetInput_busy (s : State) (c : List Byte) : (s.resetInput c).busy = false := rfl
@[simp] theorem State.resetInput_done (s : State) (c : List Byte) : (s.resetInput c).done = false := rfl
@[simp] theorem State.resetInput_crcOk (s : State) (c : List Byte) : (s.resetInput c).crcOk = false := rfl
@[simp] theorem State.resetInput_reportValid (s : State) (c : List Byte) : (s.resetInput c).reportValid = false := rfl
@[simp] theorem State.resetInput_ovr (s : State) (c : List Byte) : (s.resetInput c).ovr = false := rfl
@[simp] theorem State.resetInput_errcode (s : State) (c : List Byte) : (s.resetInput c).errcode = 0 := rfl
@[simp] theorem State.resetInput_pending (s : State) (c : List Byte) : (s.resetInput c).pending = none := rfl
@[simp] theorem State.resetInput_rpt (s : State) (c : List Byte) : (s.resetInput c).rpt = Report.zero := rfl
@[simp] theorem State.resetInput_inputs (s : State) (c : List Byte) : (s.resetInput c).inputs = s.inputs := rfl
@[simp] theorem State.resetInput_schedule (s : State) (c : List Byte) : (s.resetInput c).schedule = s.schedule := rfl
@[simp] theorem State.resetInput_responses (s : State) (c : List Byte) : (s.resetInput c).responses = s.responses := rfl
@[simp] theorem State.resetInput_draws (s : State) (c : List Byte) : (s.resetInput c).draws = s.draws := rfl

/-! ## `resetOf` -/

@[simp] theorem State.resetOf_cfg (c : Config) (m : Memory) : (State.resetOf c m).cfg = c := rfl
@[simp] theorem State.resetOf_buf (c : Config) (m : Memory) : (State.resetOf c m).buf = m := rfl
@[simp] theorem State.resetOf_len (c : Config) (m : Memory) : (State.resetOf c m).len = 0 := rfl
@[simp] theorem State.resetOf_seed (c : Config) (m : Memory) : (State.resetOf c m).seed = 0xA1 := rfl
@[simp] theorem State.resetOf_crcResult (c : Config) (m : Memory) : (State.resetOf c m).crcResult = 0 := rfl
@[simp] theorem State.resetOf_busy (c : Config) (m : Memory) : (State.resetOf c m).busy = false := rfl
@[simp] theorem State.resetOf_done (c : Config) (m : Memory) : (State.resetOf c m).done = false := rfl
@[simp] theorem State.resetOf_crcOk (c : Config) (m : Memory) : (State.resetOf c m).crcOk = false := rfl
@[simp] theorem State.resetOf_reportValid (c : Config) (m : Memory) : (State.resetOf c m).reportValid = false := rfl
@[simp] theorem State.resetOf_ovr (c : Config) (m : Memory) : (State.resetOf c m).ovr = false := rfl
@[simp] theorem State.resetOf_errcode (c : Config) (m : Memory) : (State.resetOf c m).errcode = 0 := rfl
@[simp] theorem State.resetOf_pending (c : Config) (m : Memory) : (State.resetOf c m).pending = none := rfl
@[simp] theorem State.resetOf_rpt (c : Config) (m : Memory) : (State.resetOf c m).rpt = Report.zero := rfl
@[simp] theorem State.resetOf_inputs (c : Config) (m : Memory) : (State.resetOf c m).inputs = [] := rfl
@[simp] theorem State.resetOf_schedule (c : Config) (m : Memory) : (State.resetOf c m).schedule = [] := rfl
@[simp] theorem State.resetOf_responses (c : Config) (m : Memory) : (State.resetOf c m).responses = [] := rfl
@[simp] theorem State.resetOf_draws (c : Config) (m : Memory) : (State.resetOf c m).draws = 0 := rfl

/-! ## `block` -/

@[simp] theorem State.block_respond (s : State) (r : Response) : (s.respond r).block = s.block := rfl
@[simp] theorem State.block_takeTurn (s : State) : s.takeTurn.block = s.block := by
  unfold State.takeTurn; split <;> rfl
@[simp] theorem State.block_block (s : State) : s.block.block = s.block := rfl

/-- Two states with the same block agree on every field of R22 and on the configuration. -/
theorem State.block_eq_iff (s t : State) : s.block = t.block ↔
    s.cfg = t.cfg ∧ s.buf = t.buf ∧ s.len = t.len ∧ s.seed = t.seed ∧ s.crcResult = t.crcResult ∧ s.busy = t.busy ∧
    s.done = t.done ∧ s.crcOk = t.crcOk ∧ s.reportValid = t.reportValid ∧ s.ovr = t.ovr ∧ s.errcode = t.errcode ∧
    s.pending = t.pending ∧ s.rpt = t.rpt := by
  simp [State.block]

end Sys2Proof.Machine
end

