-- ==== Sys2Proof/Laws/Commands.lean ====
section
/-! SUPPORT. What each command and the engine step can do: one lemma that says where a meaning goes, and one that
lists every next state it can give. -/
namespace Sys2Proof.Machine

theorem State.length_eq (s : State) : s.length = s.len.toNat := rfl
theorem State.trailerAt_eq (s : State) : s.trailerAt = s.len.toNat - 4 := rfl

theorem State.withinBuffer_of_le {s : State} {n : Nat} (h : n ≤ s.cfg.bufCap) (k : Result) : s.withinBuffer n k = k :=
  if_pos h

theorem State.checkerLengthOk_iff (s : State) :
    s.checkerLengthOk = true ↔ 4 ≤ s.len.toNat ∧ s.len.toNat ≤ s.cfg.bufCap := by
  rw [State.checkerLengthOk, Bool.and_eq_true, decide_eq_true_iff, decide_eq_true_iff, State.length]

/-! ## CHECK and UPDATE -/

theorem execCheck_of_lengthOk (sel : SeedSel) {s : State} (h : s.checkerLengthOk = true) :
    execCheck sel s = .next (s.compareTrailer (s.coveredCrc (seedOf checkSeed sel s))) := by
  rw [execCheck, if_pos h]
  exact State.withinBuffer_of_le (s.checkerLengthOk_iff.mp h).2 _

theorem execCheck_of_lengthBad (sel : SeedSel) {s : State} (h : s.checkerLengthOk = false) :
    execCheck sel s = .next (s.complete .truncatedOrOversized false) := by
  rw [execCheck, if_neg (by simp [h])]

theorem execUpdate_of_lengthOk (sel : SeedSel) {s : State} (h : s.checkerLengthOk = true) :
    execUpdate sel s = .next (s.stampTrailer (s.coveredCrc (seedOf updateSeed sel s))) := by
  rw [execUpdate, if_pos h]
  exact State.withinBuffer_of_le (s.checkerLengthOk_iff.mp h).2 _

theorem execUpdate_of_lengthBad (sel : SeedSel) {s : State} (h : s.checkerLengthOk = false) :
    execUpdate sel s = .next (s.complete .truncatedOrOversized false) := by
  rw [execUpdate, if_neg (by simp [h])]

/-! ## DECODE -/

theorem execDecode_of_lengthBad {t : Transport} {s : State} (h : s.len.toNat ≠ transportSize t) :
    execDecode t s = .next (s.decodeFails .truncatedOrOversized) := by
  rw [execDecode, if_pos (by simpa [State.length] using h)]

theorem execDecode_of_reportIdBad {t : Transport} {s : State} (h : s.len.toNat = transportSize t)
    (hc : decodeReach ≤ s.cfg.bufCap) (hr : s.buf.read 0 ≠ transportReportId t) :
    execDecode t s = .next (s.decodeFails .unexpectedReportId) := by
  rw [execDecode, if_neg (by simpa [State.length] using h), State.withinBuffer_of_le hc, if_pos hr]

theorem execDecode_of_valid {t : Transport} {s : State} (h : s.len.toNat = transportSize t)
    (hc : decodeReach ≤ s.cfg.bufCap) (hr : s.buf.read 0 = transportReportId t) :
    execDecode t s = .next s.decodeSucceeds := by
  rw [execDecode, if_neg (by simpa [State.length] using h), State.withinBuffer_of_le hc, if_neg (by simpa using hr)]

theorem decodeReach_le_of_wf {c : Config} (h : c.wf = true) : decodeReach ≤ c.bufCap := by
  simp only [Config.wf, Bool.and_eq_true, decide_eq_true_eq] at h
  simp only [decodeReach]
  omega

/-! ## All commands -/

/-- Every next state a command can give. -/
theorem exec_cases {i : Instr} {s t : State} (h : exec i s = .next t) :
    (∃ sel, i = .check sel ∧ s.checkerLengthOk = true ∧
      t = s.compareTrailer (s.coveredCrc (seedOf checkSeed sel s))) ∨
    (∃ sel, i = .update sel ∧ s.checkerLengthOk = true ∧
      t = s.stampTrailer (s.coveredCrc (seedOf updateSeed sel s))) ∨
    ((∃ sel, i = .check sel ∨ i = .update sel) ∧ s.checkerLengthOk = false ∧
      t = s.complete .truncatedOrOversized false) ∨
    (∃ tr, i = .decode tr ∧ s.len.toNat ≠ transportSize tr ∧ t = s.decodeFails .truncatedOrOversized) ∨
    (∃ tr, i = .decode tr ∧ s.len.toNat = transportSize tr ∧ s.buf.read 0 ≠ transportReportId tr ∧
      t = s.decodeFails .unexpectedReportId) ∨
    (∃ tr, i = .decode tr ∧ s.len.toNat = transportSize tr ∧ s.buf.read 0 = transportReportId tr ∧
      t = s.decodeSucceeds) := by
  cases i with
  | check sel =>
    change execCheck sel s = _ at h
    cases hl : s.checkerLengthOk with
    | true =>
      rw [execCheck_of_lengthOk sel hl] at h
      cases h
      exact .inl ⟨sel, rfl, rfl, rfl⟩
    | false =>
      rw [execCheck_of_lengthBad sel hl] at h
      cases h
      exact .inr (.inr (.inl ⟨⟨sel, .inl rfl⟩, rfl, rfl⟩))
  | update sel =>
    change execUpdate sel s = _ at h
    cases hl : s.checkerLengthOk with
    | true =>
      rw [execUpdate_of_lengthOk sel hl] at h
      cases h
      exact .inr (.inl ⟨sel, rfl, rfl, rfl⟩)
    | false =>
      rw [execUpdate_of_lengthBad sel hl] at h
      cases h
      exact .inr (.inr (.inl ⟨⟨sel, .inr rfl⟩, rfl, rfl⟩))
  | decode tr =>
    change execDecode tr s = _ at h
    by_cases hl : s.len.toNat = transportSize tr
    · by_cases hc : decodeReach ≤ s.cfg.bufCap
      · by_cases hr : s.buf.read 0 = transportReportId tr
        · rw [execDecode_of_valid hl hc hr] at h
          cases h
          exact .inr (.inr (.inr (.inr (.inr ⟨tr, rfl, hl, hr, rfl⟩))))
        · rw [execDecode_of_reportIdBad hl hc hr] at h
          cases h
          exact .inr (.inr (.inr (.inr (.inl ⟨tr, rfl, hl, hr, rfl⟩))))
      · simp [execDecode, State.length, hl, State.withinBuffer, hc] at h
    · rw [execDecode_of_lengthBad hl] at h
      cases h
      exact .inr (.inr (.inr (.inl ⟨tr, rfl, hl, rfl⟩)))

/-- A command may only stop by reaching beyond BUF, which an allowed BUF_CAP rules out (R74). -/
theorem exec_next_of_reach (i : Instr) {s : State} (hc : decodeReach ≤ s.cfg.bufCap) : ∃ t, exec i s = .next t := by
  cases i with
  | check sel =>
    cases hl : s.checkerLengthOk with
    | true => exact ⟨_, execCheck_of_lengthOk sel hl⟩
    | false => exact ⟨_, execCheck_of_lengthBad sel hl⟩
  | update sel =>
    cases hl : s.checkerLengthOk with
    | true => exact ⟨_, execUpdate_of_lengthOk sel hl⟩
    | false => exact ⟨_, execUpdate_of_lengthBad sel hl⟩
  | decode tr =>
    by_cases hl : s.len.toNat = transportSize tr
    · by_cases hr : s.buf.read 0 = transportReportId tr
      · exact ⟨_, execDecode_of_valid hl hc hr⟩
      · exact ⟨_, execDecode_of_reportIdBad hl hc hr⟩
    · exact ⟨_, execDecode_of_lengthBad hl⟩

/-! ## The engine step -/

/-- Every next state an engine step can give. -/
theorem engineStep_cases {s t : State} (h : engineStep s = .next t) :
    ∃ w, s.pending = some w ∧
      ((∃ i, classify w = some i ∧ exec i s = .next t) ∨ (classify w = none ∧ t = s.completeIllegal)) := by
  unfold engineStep at h
  split at h
  · cases h
  · rename_i w hw
    refine ⟨w, hw, ?_⟩
    split at h
    · rename_i i hi
      exact .inl ⟨i, hi, h⟩
    · rename_i hi
      cases h
      exact .inr ⟨hi, rfl⟩

/-! ## What stands outside the block -/

/-- A DECODE that passed its length check and did not stop had its bytes within BUF. -/
theorem decodeReach_of_next {tr : Transport} {s t : State} (hl : s.len.toNat = transportSize tr)
    (h : exec (.decode tr) s = .next t) : decodeReach ≤ s.cfg.bufCap := by
  by_contra hc
  simp [exec, execDecode, State.length, hl, State.withinBuffer, hc] at h

/-- A command neither reads nor changes what stands outside the block. -/
theorem exec_outside {i : Instr} {s t : State} (ins : List Input) (sch : List Agent) (rs : List Response) (dr : Nat)
    (h : exec i s = .next t) :
    exec i { s with inputs := ins, schedule := sch, responses := rs, draws := dr } =
      .next { t with inputs := ins, schedule := sch, responses := rs, draws := dr } := by
  let s' : State := { s with inputs := ins, schedule := sch, responses := rs, draws := dr }
  have hseed (d : Byte) (sel : SeedSel) : seedOf d sel s' = seedOf d sel s := by cases sel <;> rfl
  rcases exec_cases h with ⟨sel, rfl, hl, rfl⟩ | ⟨sel, rfl, hl, rfl⟩ | ⟨⟨sel, rfl | rfl⟩, hl, rfl⟩ | ⟨tr, rfl, hl, rfl⟩ |
    ⟨tr, rfl, hl, hr, rfl⟩ | ⟨tr, rfl, hl, hr, rfl⟩
  · have e := execCheck_of_lengthOk sel (s := s') hl
    rw [hseed] at e
    refine e.trans ?_
    by_cases q : s.coveredCrc (seedOf checkSeed sel s) = le32 s.buf s.trailerAt
    · have q' : s'.coveredCrc (seedOf checkSeed sel s) = le32 s'.buf s'.trailerAt := q
      simp only [State.compareTrailer, if_pos q, if_pos q']
      rfl
    · have q' : ¬s'.coveredCrc (seedOf checkSeed sel s) = le32 s'.buf s'.trailerAt := q
      simp only [State.compareTrailer, if_neg q, if_neg q']
      rfl
  · have e := execUpdate_of_lengthOk sel (s := s') hl
    rw [hseed] at e
    exact e
  · exact execCheck_of_lengthBad sel (s := s') hl
  · exact execUpdate_of_lengthBad sel (s := s') hl
  · exact execDecode_of_lengthBad (s := s') hl
  · have hc : decodeReach ≤ s.cfg.bufCap := decodeReach_of_next hl h
    exact execDecode_of_reportIdBad (s := s') hl hc hr
  · have hc : decodeReach ≤ s.cfg.bufCap := decodeReach_of_next hl h
    exact execDecode_of_valid (s := s') hl hc hr

end Sys2Proof.Machine
end

