-- ==== Sys2Proof/Laws/Crc.lean ====
section
/-! SUPPORT. The CRC register loses nothing: each step of the computation is injective in the register, and the byte
folded in can be told from the register after it. -/
namespace Sys2Proof.Machine

theorem getLsbD_crcPolynomial_31 : crcPolynomial.getLsbD 31 = true := by decide

/-- The bit shifted out comes back as bit 31. -/
theorem getLsbD_crcBit_31 (c : Word) : (crcBit c).getLsbD 31 = c.getLsbD 0 := by
  unfold crcBit
  split <;> simp_all [getLsbD_crcPolynomial_31]

theorem crcBit_injective {c d : Word} (h : crcBit c = crcBit d) : c = d := by
  have h0 : c.getLsbD 0 = d.getLsbD 0 := by
    rw [← getLsbD_crcBit_31, ← getLsbD_crcBit_31, h]
  have hs : c >>> 1 = d >>> 1 := by
    unfold crcBit at h
    rw [h0] at h
    split at h
    · exact BitVec.xor_left_inj _ |>.mp h
    · exact h
  apply BitVec.eq_of_getLsbD_eq
  intro i hi
  cases i with
  | zero => exact h0
  | succ i =>
    have := congrArg (fun w => w.getLsbD i) hs
    simpa [Nat.add_comm] using this

theorem crcBits_injective (k : Nat) {c d : Word} (h : crcBits k c = crcBits k d) : c = d := by
  induction k generalizing c d with
  | zero => exact h
  | succ k ih => exact crcBit_injective (ih h)

theorem crcStep_injective {c d : Word} {b : Byte} (h : crcStep c b = crcStep d b) : c = d :=
  BitVec.xor_left_inj _ |>.mp (crcBits_injective 8 h)

theorem crcStep_byte_injective {c : Word} {a b : Byte} (h : crcStep c a = crcStep c b) : a = b := by
  have h' : a.setWidth 32 = b.setWidth 32 := BitVec.xor_right_inj _ |>.mp (crcBits_injective 8 h)
  have := congrArg (BitVec.setWidth 8) h'
  simpa using this

theorem crcFold_append (c : Word) (xs ys : List Byte) : crcFold c (xs ++ ys) = crcFold (crcFold c xs) ys :=
  List.foldl_append

theorem crcFold_injective (data : List Byte) {c d : Word} (h : crcFold c data = crcFold d data) : c = d := by
  induction data generalizing c d with
  | nil => exact h
  | cons b data ih => exact crcStep_injective (ih h)

/-- Data of equal length that differ in one byte leave different registers. -/
theorem crcFold_ne_of_one_byte (c : Word) (xs ys : List Byte) {a b : Byte} (h : a ≠ b) :
    crcFold c (xs ++ a :: ys) ≠ crcFold c (xs ++ b :: ys) := by
  intro e
  rw [crcFold_append, crcFold_append] at e
  exact h (crcStep_byte_injective (crcFold_injective ys e))

theorem crcStart_injective (k : CrcSeeding) {a b : Byte} (h : crcStart k a = crcStart k b) : a = b := by
  cases k with
  | prefixByte => exact crcStep_byte_injective h
  | xorInit =>
    have h' : a.setWidth 32 = b.setWidth 32 := BitVec.xor_right_inj _ |>.mp h
    have := congrArg (BitVec.setWidth 8) h'
    simpa using this

/-- The final inversion hides no difference of the register. -/
theorem crc32Seeded_eq_iff (k : CrcSeeding) (a b : Byte) (xs ys : List Byte) :
    crc32Seeded k a xs = crc32Seeded k b ys ↔ crcFold (crcStart k a) xs = crcFold (crcStart k b) ys :=
  BitVec.xor_left_inj _

end Sys2Proof.Machine
end

