-- ==== Sys2Proof/Laws/HostPort.lean ====
section
/-! SUPPORT. The host port: the register map offset by offset, and what an access to a register or to the buffer
window comes down to. -/
namespace Sys2Proof.Machine

/-! ## The register map -/

@[simp] theorem regAt_id : regAt 0x000 = some .id := rfl
@[simp] theorem regAt_cap : regAt 0x004 = some .cap := rfl
@[simp] theorem regAt_cmd : regAt 0x008 = some .cmd := rfl
@[simp] theorem regAt_status : regAt 0x00C = some .status := rfl
@[simp] theorem regAt_len : regAt 0x010 = some .len := rfl
@[simp] theorem regAt_seed : regAt 0x014 = some .seed := rfl
@[simp] theorem regAt_crcResult : regAt 0x018 = some .crcResult := rfl
@[simp] theorem regAt_rptSticks : regAt 0x040 = some .rptSticks := rfl
@[simp] theorem regAt_rptTrig : regAt 0x044 = some .rptTrig := rfl
@[simp] theorem regAt_rptButtons : regAt 0x048 = some .rptButtons := rfl
@[simp] theorem regAt_rptGyroX : regAt 0x04C = some .rptGyroX := rfl
@[simp] theorem regAt_rptGyroY : regAt 0x050 = some .rptGyroY := rfl
@[simp] theorem regAt_rptGyroZ : regAt 0x054 = some .rptGyroZ := rfl
@[simp] theorem regAt_rptAccelX : regAt 0x058 = some .rptAccelX := rfl
@[simp] theorem regAt_rptAccelY : regAt 0x05C = some .rptAccelY := rfl
@[simp] theorem regAt_rptAccelZ : regAt 0x060 = some .rptAccelZ := rfl
@[simp] theorem regAt_rptTimestamp : regAt 0x064 = some .rptTimestamp := rfl
@[simp] theorem regAt_rptTouch0 : regAt 0x068 = some .rptTouch0 := rfl
@[simp] theorem regAt_rptTouch1 : regAt 0x06C = some .rptTouch1 := rfl

/-- The offset of each register (R25). -/
def Reg.offset : Reg → Nat
  | .id => 0x000
  | .cap => 0x004
  | .cmd => 0x008
  | .status => 0x00C
  | .len => 0x010
  | .seed => 0x014
  | .crcResult => 0x018
  | .rptSticks => 0x040
  | .rptTrig => 0x044
  | .rptButtons => 0x048
  | .rptGyroX => 0x04C
  | .rptGyroY => 0x050
  | .rptGyroZ => 0x054
  | .rptAccelX => 0x058
  | .rptAccelY => 0x05C
  | .rptAccelZ => 0x060
  | .rptTimestamp => 0x064
  | .rptTouch0 => 0x068
  | .rptTouch1 => 0x06C

theorem lookup_mem {l : List (Nat × Reg)} {off : Nat} {r : Reg} (h : l.lookup off = some r) : (off, r) ∈ l := by
  induction l with
  | nil => simp at h
  | cons p l ih =>
    obtain ⟨o, q⟩ := p
    rw [List.lookup_cons] at h
    split at h
    · simp_all
    · exact List.mem_cons_of_mem _ (ih h)

/-- The map is one to one: an offset holds at most the register whose offset it is. -/
theorem regAt_eq_some_iff (off : Nat) (r : Reg) : regAt off = some r ↔ off = r.offset := by
  constructor
  · intro h
    have := lookup_mem h
    simp only [regMap, List.cons_append, List.nil_append, List.mem_cons, Prod.mk.injEq, List.mem_nil_iff, or_false] at this
    rcases this with h | h | h | h | h | h | h | h | h | h | h | h | h | h | h | h | h | h | h <;>
      (obtain ⟨rfl, rfl⟩ := h; rfl)
  · rintro rfl
    cases r <;> rfl

theorem Reg.offset_bounds (r : Reg) : r.offset < bufferBase ∧ r.offset % 4 = 0 := by
  cases r <;> decide

theorem busError_reg (cfg : Config) {off : Nat} {r : Reg} (h : regAt off = some r) : busError cfg off 4 = false := by
  have ho := (regAt_eq_some_iff off r).mp h
  have hb := r.offset_bounds
  rw [← ho] at hb
  have h0 : off < 256 := hb.1
  have h4 : off % 4 = 0 := hb.2
  have hs : regAt off ≠ none := by simp [h]
  simp only [busError, decide_eq_false_iff_not, apertureSize, bufferBase]
  rintro (h1 | h1 | h1 | ⟨-, h1 | h1⟩ | h1)
  · exact h1 (.inr (.inr trivial))
  · exact h1 h4
  · omega
  · exact h1 rfl
  · exact hs h1
  · omega

/-! ## Accesses to a register -/

theorem hostRead_reg (s : State) {off : Nat} {r : Reg} (h : regAt off = some r) :
    hostRead s off 4 = { s with draws := if s.busy then s.draws + 1 else s.draws }.respond
      (.value (s.readReg (Config.draw s.draws) r)) := by
  have hb := r.offset_bounds.1
  rw [← (regAt_eq_some_iff off r).mp h] at hb
  simp only [hostRead, busError_reg s.cfg h, State.readValue, hb, h]
  rfl

theorem hostWrite_reg (s : State) (v : Word) {off : Nat} {r : Reg} (h : regAt off = some r) :
    hostWrite s off 4 v = (s.writeReg v r).respond .ok := by
  have hb := r.offset_bounds.1
  rw [← (regAt_eq_some_iff off r).mp h] at hb
  simp only [hostWrite, busError_reg s.cfg h, State.writeValue, hb, h]
  rfl

/-- The same, by register instead of by offset: `hostRead_offset s .len` is the read of offset 0x010. -/
theorem hostRead_offset (s : State) (r : Reg) :
    hostRead s r.offset 4 = { s with draws := if s.busy then s.draws + 1 else s.draws }.respond
      (.value (s.readReg (Config.draw s.draws) r)) :=
  hostRead_reg s ((regAt_eq_some_iff _ r).mpr rfl)

theorem hostWrite_offset (s : State) (v : Word) (r : Reg) :
    hostWrite s r.offset 4 v = (s.writeReg v r).respond .ok :=
  hostWrite_reg s v ((regAt_eq_some_iff _ r).mpr rfl)

/-! ## Accesses to the buffer window -/

theorem hostRead_buffer (s : State) {off n : Nat} (ho : 0x100 ≤ off) (he : busError s.cfg off n = false) :
    hostRead s off n = { s with draws := if s.busy then s.draws + 1 else s.draws }.respond
      (.value (s.readBuffer (Config.draw s.draws) (off - 0x100) n)) := by
  have hb : ¬off < bufferBase := by simp only [bufferBase]; omega
  simp only [hostRead, he, State.readValue, hb]
  rfl

theorem hostWrite_buffer (s : State) {off n : Nat} (v : Word) (ho : 0x100 ≤ off) (he : busError s.cfg off n = false) :
    hostWrite s off n v = (s.unlessBusy { s with buf := memWrite s.buf (off - 0x100) n v }).respond .ok := by
  have hb : ¬off < bufferBase := by simp only [bufferBase]; omega
  simp only [hostWrite, he, State.writeValue, hb]
  rfl

/-- An access the port performs in the buffer window has 1, 2 or 4 bytes and stays inside BUF. -/
theorem busError_buffer {cfg : Config} {off n : Nat} (ho : 0x100 ≤ off) (he : busError cfg off n = false) :
    (n = 1 ∨ n = 2 ∨ n = 4) ∧ off - 0x100 + n ≤ cfg.bufCap := by
  simp only [busError, decide_eq_false_iff_not, not_or, not_not, not_and, not_lt, bufferBase] at he
  omega

/-- While idle a byte reads as it is, whatever the draw. -/
theorem readBuffer_eq_memRead {s : State} (h : s.busy = false) (d : Word) (a n : Nat) :
    s.readBuffer d a n = memRead s.buf a n := by
  induction n generalizing d a with
  | zero => rfl
  | succ n ih => rw [State.readBuffer, memRead, ih, State.hostByte, State.trailerUnstable, h]; simp

/-- Byte lane `k` of a buffer read is the host's reading of the k-th byte, with lane `k` of the draw (R66, R73). -/
theorem extractLsb'_readBuffer (s : State) (d : Word) (a : Nat) {n k : Nat} (hn : n ≤ 4) (hk : k < n) :
    (s.readBuffer d a n).extractLsb' (8 * k) 8 = s.hostByte (d.extractLsb' (8 * k) 8) (a + k) := by
  induction k generalizing d a n with
  | zero =>
    obtain ⟨n, rfl⟩ : ∃ m, n = m + 1 := ⟨n - 1, by omega⟩
    have hd : d.extractLsb' (8 * 0) 8 = d.setWidth 8 := by
      ext i hi
      simp
    rw [State.readBuffer, hd]
    ext i hi
    simp [hi]
    omega
  | succ k ih =>
    obtain ⟨n, rfl⟩ : ∃ m, n = m + 1 := ⟨n - 1, by omega⟩
    have hlane := ih (d >>> 8) (a + 1) (n := n) (by omega) (by omega)
    have hd : (d >>> 8).extractLsb' (8 * k) 8 = d.extractLsb' (8 * (k + 1)) 8 := by
      ext i hi
      simp [Nat.mul_add, Nat.add_comm, Nat.add_left_comm]
    rw [hd, show a + 1 + k = a + (k + 1) by omega] at hlane
    rw [← hlane, State.readBuffer]
    ext i hi
    have hbyte : (s.hostByte (d.setWidth 8) a).getLsbD (8 * (k + 1) + i) = false := BitVec.getLsbD_of_ge _ _ (by omega)
    have h1 : 8 * (k + 1) + i < 32 := by omega
    have h2 : ¬8 * (k + 1) + i < 8 := by omega
    have h3 : 8 * (k + 1) + i - 8 = 8 * k + i := by omega
    have h4 : 8 * k + i < 32 := by omega
    simp [h1, h2, h3, h4, hbyte]

end Sys2Proof.Machine
end

