-- ==== Sys2Proof/Laws/PerInstr.lean ====
section
/-! SUPPORT. Facts about every instruction as syntax, one lemma per constructor. -/
namespace Sys2Proof.Laws.LegalWord

/-- An instruction's word is legal, field by field (spec/30_encoding.md R91, R96). -/
def Statement (i : Sys2Proof.Instr) : Prop := Sys2Proof.illegalWord (Sys2Proof.encode i) = none

theorem check (sel : Sys2Proof.SeedSel) : Statement (.check sel) := by
  cases sel <;> rfl

theorem update (sel : Sys2Proof.SeedSel) : Statement (.update sel) := by
  cases sel <;> rfl

theorem decode (t : Sys2Proof.Transport) : Statement (.decode t) := by
  cases t <;> rfl

end Sys2Proof.Laws.LegalWord
end

