-- ==== Sys2Proof/Laws/Step.lean ====
section
/-! SUPPORT. What a host event and a step can do. -/
namespace Sys2Proof.Machine

/-! ## Host accesses -/

/-- A read has no side effect on the block (R71). -/
@[simp] theorem block_hostRead (s : State) (off n : Nat) : (hostRead s off n).block = s.block := by
  unfold hostRead
  split <;> rfl

@[simp] theorem inputs_hostRead (s : State) (off n : Nat) : (hostRead s off n).inputs = s.inputs := by
  unfold hostRead
  split <;> rfl

@[simp] theorem schedule_hostRead (s : State) (off n : Nat) : (hostRead s off n).schedule = s.schedule := by
  unfold hostRead
  split <;> rfl

/-- Everything an accepted write can do to the block. -/
theorem writeValue_cases (s : State) (off n : Nat) (v : Word) :
    s.writeValue off n v = s ∨
    (s.busy = true ∧ s.writeValue off n v = s.dropWrite) ∨
    s.writeValue off n v = s.writeStatus v ∨
    (s.busy = false ∧ regAt off = some .cmd ∧ off < bufferBase ∧ s.writeValue off n v = s.issue v) ∨
    (s.busy = false ∧ s.writeValue off n v = { s with len := v.setWidth 16 }) ∨
    (s.busy = false ∧ s.writeValue off n v = { s with seed := v.setWidth 8 }) ∨
    (s.busy = false ∧ bufferBase ≤ off ∧
      s.writeValue off n v = { s with buf := memWrite s.buf (off - bufferBase) n v }) := by
  cases hb : s.busy with
  | true =>
    unfold State.writeValue
    split
    · split
      · rename_i r hr
        cases r <;> simp [State.writeReg, State.unlessBusy, hb]
      · simp
    · simp [State.unlessBusy, hb]
  | false =>
    unfold State.writeValue
    split
    · split
      · rename_i ho r hr
        cases r <;> simp_all [State.writeReg, State.unlessBusy]
      · simp
    · simp_all [State.unlessBusy]

/-- A host write either is refused and changes no block state, or is performed. -/
theorem hostWrite_cases (s : State) (off n : Nat) (v : Word) :
    (busError s.cfg off n = true ∧ hostWrite s off n v = s.respond .busError) ∨
    (busError s.cfg off n = false ∧ hostWrite s off n v = (s.writeValue off n v).respond .ok) := by
  cases h : busError s.cfg off n <;> simp [hostWrite, h]

/-! ## Steps -/

/-- Everything a step can do: nothing while idle, an engine step while busy, or one host event. -/
theorem step_cases {s t : State} (h : step s = .next t) :
    (s.busy = false ∧ s.inputs = [] ∧ t = s) ∨
    (s.busy = true ∧ s.turn = some .engine ∧ engineStep s.takeTurn = .next t) ∨
    (s.turn = some .host ∧ s.inputs ≠ [] ∧ t = hostStep s.takeTurn) := by
  unfold step at h
  split at h
  · rename_i hn
    cases h
    unfold State.turn at hn
    refine .inl ?_
    cases hb : s.busy <;> cases hi : s.inputs <;> simp_all [State.contended]
  · rename_i he
    refine .inr (.inl ⟨?_, he, h⟩)
    unfold State.turn at he
    cases hb : s.busy <;> cases hi : s.inputs <;> simp_all [State.contended]
  · rename_i hh
    cases h
    refine .inr (.inr ⟨hh, ?_, rfl⟩)
    unfold State.turn at hh
    cases hb : s.busy <;> cases hi : s.inputs <;> simp_all [State.contended]

/-- The host's step, by the event that waits. -/
theorem hostStep_access {s : State} {a : Access} {rest : List Input} (h : s.inputs = .access a :: rest) :
    hostStep s = hostAccess { s with inputs := rest } a := by
  simp [hostStep, h]

theorem hostStep_wait {s : State} {rest : List Input} (h : s.inputs = .wait :: rest) :
    hostStep s = hostRead { s with inputs := if s.busy then s.inputs else rest } statusOffset 4 := by
  simp [hostStep, h]

theorem hostStep_reset {s : State} {c : List Byte} {rest : List Input} (h : s.inputs = .reset c :: rest) :
    hostStep s = State.resetInput { s with inputs := rest } c := by
  simp [hostStep, h]

/-- What a performed write does to the block does not depend on what waits outside it. -/
theorem block_writeValue_inputs (s : State) (rest : List Input) (off n : Nat) (v : Word) :
    (State.writeValue { s with inputs := rest } off n v).block = (s.writeValue off n v).block := by
  unfold State.writeValue
  split
  · split
    · rename_i r _
      cases r <;> simp only [State.writeReg, State.unlessBusy] <;> first | rfl | (split <;> rfl)
    · rfl
  · simp only [State.unlessBusy]
    split <;> rfl

/-- Everything a host event can do to the block: nothing, one performed write, or reset. -/
theorem hostStep_cases (s : State) :
    (hostStep s).block = s.block ∨
    (∃ off n v, s.nextIsWrite off n v ∧ (hostStep s).block = (s.writeValue off n v).block) ∨
    (∃ c rest, s.inputs = .reset c :: rest ∧ hostStep s = State.resetInput { s with inputs := rest } c) := by
  cases hin : s.inputs with
  | nil => exact .inl (by simp [hostStep, hin])
  | cons e rest =>
    cases e with
    | access a =>
      rw [hostStep_access hin]
      cases a with
      | read addr n =>
        refine .inl ?_
        unfold hostAccess
        simp only
        split
        · rw [block_hostRead]; rfl
        · rfl
      | write addr n v =>
        cases ho : Config.offsetOf s.cfg addr with
        | none => exact .inl (by simp only [hostAccess, ho]; rfl)
        | some off =>
          simp only [hostAccess, ho]
          rcases hostWrite_cases { s with inputs := rest } off n v with ⟨_, e⟩ | ⟨hb, e⟩
          · exact .inl (by rw [e]; rfl)
          · refine .inr (.inl ⟨off, n, v, ⟨addr, rest, hin, ho, hb⟩, ?_⟩)
            rw [e, ← block_writeValue_inputs s rest]
            rfl
    | wait =>
      rw [hostStep_wait hin]
      exact .inl (by rw [block_hostRead]; rfl)
    | reset c => exact .inr (.inr ⟨c, rest, rfl, hostStep_reset hin⟩)

/-- A host event uses up no entry of the schedule. -/
@[simp] theorem schedule_hostStep (s : State) : (hostStep s).schedule = s.schedule := by
  have hw (s : State) (off n : Nat) (v : Word) : (hostWrite s off n v).schedule = s.schedule := by
    rcases hostWrite_cases s off n v with ⟨_, e⟩ | ⟨_, e⟩ <;> rw [e]
    · rfl
    · rcases writeValue_cases s off n v with e | ⟨_, e⟩ | e | ⟨_, _, _, e⟩ | ⟨_, e⟩ | ⟨_, e⟩ | ⟨_, _, e⟩ <;>
        rw [e] <;> rfl
  cases hin : s.inputs with
  | nil => simp [hostStep, hin]
  | cons e rest =>
    cases e with
    | access a =>
      rw [hostStep_access hin]
      cases a <;> simp only [hostAccess] <;> split <;> simp [hw]
    | wait => rw [hostStep_wait hin, schedule_hostRead]
    | reset c => rw [hostStep_reset hin]; rfl

/-- The events that wait after a host event are among those that waited before. -/
theorem inputs_hostStep_subset (s : State) : (hostStep s).inputs ⊆ s.inputs := by
  have hw (s : State) (off n : Nat) (v : Word) : (hostWrite s off n v).inputs = s.inputs := by
    rcases hostWrite_cases s off n v with ⟨_, e⟩ | ⟨_, e⟩ <;> rw [e]
    · rfl
    · rcases writeValue_cases s off n v with e | ⟨_, e⟩ | e | ⟨_, _, _, e⟩ | ⟨_, e⟩ | ⟨_, e⟩ | ⟨_, _, e⟩ <;>
        rw [e] <;> rfl
  cases hin : s.inputs with
  | nil => simp [hostStep, hin]
  | cons e rest =>
    cases e with
    | access a =>
      rw [hostStep_access hin]
      cases a <;> simp only [hostAccess] <;> split <;> simp [hw]
    | wait => rw [hostStep_wait hin, inputs_hostRead]; split <;> simp [hin]
    | reset c => rw [hostStep_reset hin]; exact List.subset_cons_self _ _

end Sys2Proof.Machine
end

