-- ==== Sys2Proof/Tests/Slice0.lean ====
section
/-! SUPPORT. Small tests of the model, and a witness for the hypotheses of each statement of Obligations.lean.
Expected values are those of spec/95_test_vectors.md (the ids V-… below) or of the rule named. -/
namespace Sys2Proof.Tests
open Sys2Proof.Machine

/-! ## Helpers -/

/-- An idle reference instance whose BUF begins with `bytes`, the rest 00, and whose LEN is `len`. -/
def idle (bytes : List Byte) (len : Half) : State :=
  { State.resetOf Config.reference (overlay 128 [] 0 bytes) with len := len }

/-- The same with command word `w` accepted and the host's events `es` waiting. -/
def pending (w : Word) (es : List Input) (bytes : List Byte) (len : Half) : State :=
  { (idle bytes len).issue w with inputs := es }

/-- BUF[1..32) of V-D1. -/
def reportLow : List Byte :=
  [0x80, 0x7F, 0x00, 0xFF, 0x10, 0xFE, 0x2A, 0x20, 0x41, 0x05, 0x00, 0xDE, 0xAD, 0xBE, 0xEF] ++
  [0x34, 0x12, 0xFF, 0xFF, 0x00, 0x80, 0xFF, 0x7F, 0x01, 0x00, 0x00, 0xFE, 0x78, 0x56, 0x34, 0x12]

/-- BUF[1..64) of V-D1. -/
def reportBytes : List Byte :=
  reportLow ++ [0x99, 0x05, 0xFF, 0x0F, 0x00, 0x80, 0x34, 0xA2, 0x5B] ++ List.replicate 12 0x00 ++ [0x1A] ++
  List.replicate 10 0x00

/-- The report registers of V-D1. -/
def reportOfVector : Report :=
  ⟨0xFF007F80, 0x1A2AFE10, 0x00054120, 0x00001234, 0xFFFFFFFF, 0xFFFF8000, 0x00007FFF, 0x00000001, 0xFFFFFE00,
    0x12345678, 0x000FFF05, 0x5BA23480⟩

/-- What one step leaves, as far as a test looks at it. -/
def after {α : Type} (f : State → α) (s : State) : Option α :=
  match step s with
  | .next t => some (f t)
  | _ => none

/-- STATUS and CRC_RESULT. -/
def verdict (s : State) : Word × Word := (s.statusWord, s.crcResult)

/-- STATUS, CRC_RESULT and the four bytes at `p`. -/
def stamp (p : Nat) (s : State) : Word × Word × List Byte := (s.statusWord, s.crcResult, bytesFrom s.buf p 4)

/-! ## WellFormed and the check of a word -/

theorem test_wf_reference : Config.reference.wf = true := by decide
theorem test_wf_bounds : (Config.mk 80 0x200 .prefixByte).wf = true ∧ (Config.mk 256 0 .xorInit).wf = true := by decide
theorem test_wf_refuses_small_buffer : (Config.mk 76 0 .prefixByte).wf = false := by decide
theorem test_wf_refuses_large_buffer : (Config.mk 260 0 .prefixByte).wf = false := by decide
theorem test_wf_refuses_odd_capacity : (Config.mk 130 0 .prefixByte).wf = false := by decide
theorem test_wf_refuses_unaligned_base : (Config.mk 128 0x100 .prefixByte).wf = false := by decide

/-- Each way R96 names in which a word is illegal (V-E). -/
theorem test_illegal_words_by_name :
    illegalWord 0x00000000 = some .opcode ∧ illegalWord 0x00000004 = some .opcode ∧
    illegalWord 0x0000000F = some .opcode ∧ illegalWord 0x00000041 = some .reservedBits ∧
    illegalWord 0x00000101 = some .transportOnChecker ∧ illegalWord 0x00000113 = some .seedSelOnDecode ∧
    illegalWord 0x80000003 = some .reservedBits ∧ illegalWord 0x00000203 = some .reservedBits ∧
    illegalWord 0x00000103 = none ∧ decodeBytes [0x01, 0x00, 0x00] = .error .notOneWord := by decide

theorem test_illegal_words_classify :
    [0x00000000, 0x00000004, 0x0000000F, 0x00000041, 0x00000101, 0x00000113, 0x80000003, 0x00000203].map classify =
      List.replicate 8 none := by decide

/-! ## Decoding: words written bit by bit from R91 -/

theorem test_decode_check :
    classify 0b00000000000000000000000000_00_0001 = some (.check .direction) ∧
    classify 0b00000000000000000000000000_01_0001 = some (.check .a1) ∧
    classify 0b00000000000000000000000000_10_0001 = some (.check .a2) ∧
    classify 0b00000000000000000000000000_11_0001 = some (.check .seedReg) := by decide

theorem test_decode_update :
    classify 0b00000000000000000000000000_00_0010 = some (.update .direction) ∧
    classify 0b00000000000000000000000000_01_0010 = some (.update .a1) ∧
    classify 0b00000000000000000000000000_10_0010 = some (.update .a2) ∧
    classify 0b00000000000000000000000000_11_0010 = some (.update .seedReg) := by decide

theorem test_decode_decode :
    classify 0b00000000000000000000000_0_0000_0011 = some (.decode .usb) ∧
    classify 0b00000000000000000000000_1_0000_0011 = some (.decode .bluetooth) := by decide

/-- The byte form of a word is little-endian (R66). -/
theorem test_decode_bytes : decodeBytes [0x03, 0x01, 0x00, 0x00] = .ok (.decode .bluetooth) := by decide

theorem test_decode_table_word :
    decodeTableWord 32 0x00000031 = some (.check .seedReg) ∧ decodeTableWord 32 0x00000103 = some (.decode .bluetooth) ∧
    decodeTableWord 32 0x00000203 = none := by decide

/-- The word a host places runs as the first command after reset; LEN is 0 there, so each ends with ERRCODE = 1. -/
theorem test_first_step_runs_word :
    (∀ w ∈ [0x00000001, 0x00000022, 0x00000003, 0x00000103],
      after State.statusWord (State.reset.withFetchWord 32 w) = some 0x00000102) ∧
    after State.statusWord (State.reset.withFetchWord 32 0x00000041) = some 0x00000402 := by decide

/-! ## CRC -/

/-- V-C2. -/
theorem test_crc_after_seed : crcStart .prefixByte 0xA1 = 0x8C2C830C ∧ crcStart .prefixByte 0xA2 = 0x1525D2B6 := by
  decide

/-- V-C3, the nine-byte rows. -/
theorem test_crc_digits :
    crc32Seeded .prefixByte 0xA1 [0x31, 0x32, 0x33, 0x34, 0x35, 0x36, 0x37, 0x38, 0x39] = 0x88ED2411 ∧
    crc32Seeded .prefixByte 0xA2 [0x31, 0x32, 0x33, 0x34, 0x35, 0x36, 0x37, 0x38, 0x39] = 0x63DA9F12 := by
  decide +kernel

/-- V-C3, the Bluetooth zero report under the seed 0xA1 (S4), cut at the register after 25 and 49 bytes. -/
theorem test_crc_zero_report : crc32Seeded .prefixByte 0xA1 (0x31 :: List.replicate 73 0x00) = 0x1C9C519D := by
  have h1 : crcFold (crcStart .prefixByte 0xA1) (0x31 :: List.replicate 24 0x00) = 0x27AC6650 := by decide +kernel
  have h2 : crcFold 0x27AC6650 (List.replicate 24 0x00) = 0x6FED27D6 := by decide +kernel
  have h3 : crcFold 0x6FED27D6 (List.replicate 25 0x00) = 0x1C9C519D ^^^ 0xFFFFFFFF := by decide +kernel
  have e : (0x31 :: List.replicate 73 0x00 : List Byte) =
      (0x31 :: List.replicate 24 0x00) ++ (List.replicate 24 0x00 ++ List.replicate 25 0x00) := by decide
  rw [crc32Seeded, e, crcFold_append, crcFold_append, h1, h2, h3]
  decide

/-! ## CHECK (V-C1, with the data of V-C3) -/

/-- "123456789" with a trailer. -/
def digits (trailer : List Byte) : List Byte := [0x31, 0x32, 0x33, 0x34, 0x35, 0x36, 0x37, 0x38, 0x39] ++ trailer

/-- The seed selections: the default is 0xA1; a stamp made with 0xA2 fails under it and passes under A2 and SEED. -/
theorem test_check_seeds :
    after verdict (pending 0x00000001 [] (digits [0x11, 0x24, 0xED, 0x88]) 13) = some (0x00000006, 0x88ED2411) ∧
    after verdict (pending 0x00000011 [] (digits [0x12, 0x9F, 0xDA, 0x63]) 13) = some (0x00000302, 0x88ED2411) ∧
    after verdict (pending 0x00000021 [] (digits [0x12, 0x9F, 0xDA, 0x63]) 13) = some (0x00000006, 0x63DA9F12) ∧
    after verdict { pending 0x00000031 [] (digits [0x12, 0x9F, 0xDA, 0x63]) 13 with seed := 0xA2 }
      = some (0x00000006, 0x63DA9F12) := by
  decide +kernel

/-- V-C1 rows 6 to 9: the edges of LEN. -/
theorem test_check_lengths :
    after verdict (pending 0x00000001 [] [0xF3, 0x7C, 0xD3, 0x73] 4) = some (0x00000006, 0x73D37CF3) ∧
    after verdict (pending 0x00000001 [] [0x00, 0x57, 0x9F, 0xC5, 0xF6] 5) = some (0x00000006, 0xF6C59F57) ∧
    after verdict { pending 0x00000001 [] [] 3 with crcResult := 0x12345678 } = some (0x00000102, 0x12345678) ∧
    after verdict (pending 0x00000001 [] [] 129) = some (0x00000102, 0) := by
  decide +kernel

/-! ## UPDATE (V-U, with the data of V-C3) -/

/-- The seeds of the two directions, and a second UPDATE. -/
theorem test_update_seeds :
    after (stamp 9) (pending 0x00000002 [] (digits [0xAA, 0xBB, 0xCC, 0xDD]) 13)
      = some (0x00000002, 0x63DA9F12, [0x12, 0x9F, 0xDA, 0x63]) ∧
    after (stamp 9) (pending 0x00000012 [] (digits [0xAA, 0xBB, 0xCC, 0xDD]) 13)
      = some (0x00000002, 0x88ED2411, [0x11, 0x24, 0xED, 0x88]) ∧
    after (stamp 9) (pending 0x00000022 [] (digits [0x12, 0x9F, 0xDA, 0x63]) 13)
      = some (0x00000002, 0x63DA9F12, [0x12, 0x9F, 0xDA, 0x63]) := by
  decide +kernel

/-- V-U rows 4 and 5: the shortest buffer and one too short. -/
theorem test_update_lengths :
    after (stamp 0) (pending 0x00000002 [] [0x11, 0x22, 0x33, 0x44] 4)
      = some (0x00000002, 0xEADA2D49, [0x49, 0x2D, 0xDA, 0xEA]) ∧
    after (stamp 0) (pending 0x00000002 [] [0x11, 0x22, 0x33, 0x44] 2)
      = some (0x00000102, 0, [0x11, 0x22, 0x33, 0x44]) := by
  decide

/-! ## DECODE (V-D1 to V-D7) -/

/-- V-D1 and V-D6. -/
theorem test_decode_full_report :
    after State.rpt (pending 0x00000003 [] (0x01 :: reportBytes) 64) = some reportOfVector ∧
    after State.statusWord (pending 0x00000003 [] (0x01 :: reportBytes) 64) = some 0x0000000A ∧
    after State.rpt (pending 0x00000103 [] (0x31 :: reportBytes ++ List.replicate 14 0x77) 78) = some reportOfVector := by
  decide

/-- V-D2 to V-D5c: the report registers stay and REPORT_VALID is 0. -/
theorem test_decode_framing :
    let old (w : Word) (b0 : Byte) (len : Half) : State :=
      { pending w [] (b0 :: reportBytes) len with rpt := reportOfVector, reportValid := true }
    let seen (s : State) : Option (Word × Report) := after (fun t => (t.statusWord, t.rpt)) s
    seen (old 0x00000103 0x01 64) = some (0x00000102, reportOfVector) ∧
    seen (old 0x00000103 0x01 78) = some (0x00000202, reportOfVector) ∧
    seen (old 0x00000003 0x31 64) = some (0x00000202, reportOfVector) ∧
    seen (old 0x00000003 0x01 0) = some (0x00000102, reportOfVector) ∧
    seen (old 0x00000003 0x01 78) = some (0x00000102, reportOfVector) ∧
    seen (old 0x00000003 0x01 65) = some (0x00000102, reportOfVector) := by
  decide

/-- V-D7. -/
theorem test_touch_bytes :
    (∀ p ∈ ([([0x00, 0xFF, 0x0F, 0x00], 0x000FFF00), ([0xFF, 0xFF, 0xFF, 0xFF], 0xFFFFFFFF),
        ([0x00, 0x00, 0xF0, 0x00], 0x00F00000), ([0x00, 0x00, 0x00, 0xFF], 0xFF000000),
        ([0x7F, 0x00, 0x0F, 0x00], 0x000F007F), ([0x80, 0x34, 0xA2, 0x5B], 0x5BA23480)] : List (List Byte × Word)),
      touchAt (overlay 128 [] 0 p.1) 0 = p.2) := by
  decide

/-! ## Host port (V-H) -/

/-- The answers an access gets, newest first. -/
def answers (s : State) : List Response := s.responses

theorem test_register_reads :
    answers (hostRead State.reset 0x000 4) = [.value 0x44535243] ∧
    answers (hostRead State.reset 0x004 4) = [.value 0x00000080] ∧
    answers (hostRead State.reset 0x008 4) = [.value 0x00000000] ∧
    answers (hostRead State.reset 0x00C 4) = [.value 0x00000000] ∧
    answers (hostRead State.reset 0x014 4) = [.value 0x000000A1] := by
  decide

theorem test_operand_registers :
    answers (hostRead (hostWrite State.reset 0x010 4 0xFFFF0040) 0x010 4) = [.value 0x00000040, .ok] ∧
    answers (hostRead (hostWrite State.reset 0x014 4 0x12345678) 0x014 4) = [.value 0x00000078, .ok] := by
  decide

theorem test_bus_errors :
    (∀ p ∈ [(0x00C, 1), (0x002, 4), (0x01C, 4), (0x070, 4), (0x101, 2), (0x180, 4), (0x200, 4), (0x000, 8), (0x100, 0)],
      busError Config.reference p.1 p.2 = true) ∧
    (∀ p ∈ [(0x000, 4), (0x17C, 4), (0x17F, 1), (0x17E, 2), (0x100, 1), (0x06C, 4)],
      busError Config.reference p.1 p.2 = false) := by
  decide

theorem test_buffer_is_little_endian :
    let s := hostWrite State.reset 0x100 4 0x44332211
    answers (hostRead s 0x100 1) = [.value 0x11, .ok] ∧ answers (hostRead s 0x103 1) = [.value 0x44, .ok] ∧
    answers (hostRead s 0x102 2) = [.value 0x4433, .ok] := by
  decide

theorem test_writes_while_busy :
    let s := hostWrite (pending 0x00000001 [] [] 3) 0x010 4 5
    s.len = 3 ∧ s.ovr = true ∧ answers s = [.ok] ∧ (hostWrite s 0x00C 4 0x00000010).ovr = false := by
  decide

/-- P4 of Part 3: both ends of the race between the CHECK and SETLEN 78. -/
theorem test_program_p4_both_orders :
    let start (o : Agent) : State := { pending 0x00000001 [setLen Config.reference 78] [] 3 with schedule := [o] }
    let twice (s : State) : Option (Word × Half) :=
      match step s with
      | .next t => after (fun u => (u.statusWord, u.len)) t
      | _ => none
    twice (start .engine) = some (0x00000102, 78) ∧ twice (start .host) = some (0x00000112, 3) := by
  decide

/-- A program of R98 to R100 as events: lines 5 to 8 of P1, the last read answered by STATUS after the CHECK. -/
theorem test_fill_words : fill Config.reference 0x100 0 2 =
    [.access (.write 0x100 4 0), .access (.write 0x104 4 0)] ∧
    clear Config.reference = .access (.write 0x00C 4 0x00000012) ∧
    setSeed Config.reference 0xA2 = .access (.write 0x014 4 0xA2) := by
  decide

/-! ## Witnesses: for each statement a state and operands that meet its hypotheses together -/

/-- A busy state that meets the invariant: a CHECK in flight, a CMD write and a WAIT waiting. -/
def inFlight : State := pending 0x00000001 [cmdWord Config.reference 0x00000002] [0x31] 78

theorem inFlight_inv : inFlight.Inv :=
  ⟨by decide, by decide, by decide, by decide, by decide, by decide, by decide, by decide, by decide, by decide,
    by decide, by decide, by decide⟩

/-- A reset state's BUF need not be empty; the smallest and the largest instance. -/
theorem witness_ResetMeetsTheInvariant :
    (Config.mk 80 0x200 .prefixByte).wf = true ∧ Memory.wf 80 [(0, 0x01#8), (79, 0xFF#8)] = true ∧
    (Config.mk 256 0 .prefixByte).wf = true ∧ Memory.wf 256 [(255, 0x01#8)] = true := by decide

theorem witness_WordMeansInstrIffEncoded : classify 0x00000103 = some (.decode .bluetooth) ∧
    (0x00000031 : Word) = encode (.check .seedReg) := by decide

theorem witness_IllegalWordsCompleteWithoutEffect :
    (classify 0x80000003 = none ∧ (idle [] 0).busy = false) ∧
    (classify 0x00000101 = none ∧ (pending 0x00000101 [] [] 0).pending = some 0x00000101) := by decide

theorem witness_StepRunsThePendingCommand :
    (∃ s : State, s.busy = true ∧ s.pending = some 0x00000002 ∧
      classify 0x00000002 = some (.update .direction) ∧ s.inputs = []) ∧
    (∃ s : State, s.busy = true ∧ s.pending = some 0x00000002 ∧ s.inputs ≠ [] ∧ s.schedule.head? ≠ some .host) :=
  ⟨⟨pending 2 [] [] 0, by decide⟩, ⟨{ pending 2 [.wait] [] 0 with schedule := [.engine] }, by decide⟩⟩

theorem witness_BothOrdersAreAdmitted : inFlight.busy = true ∧ inFlight.inputs ≠ [] := by decide

theorem witness_CmdWriteRacesCompletion :
    inFlight.Inv ∧ inFlight.busy = true ∧ inFlight.inputs = [cmdWord inFlight.cfg 0x00000002] :=
  ⟨inFlight_inv, by decide⟩

/-- With no reset among the events, and with one. -/
theorem witness_EveryAcceptedCommandCompletes :
    (inFlight.Inv ∧ inFlight.busy = true ∧ ∀ c, .reset c ∉ inFlight.inputs) ∧
    ∃ s : State, s.busy = true ∧ .reset [0x55] ∈ s.inputs :=
  ⟨⟨inFlight_inv, by decide, by simp [inFlight, Tests.pending, cmdWord, writeAt]⟩, pending 1 [.reset [0x55]] [] 78,
    by decide⟩

theorem witness_IdleBlockHoldsItsState : (idle [0x01] 64).busy = false ∧ (idle [0x01] 64).inputs = [] := by decide

/-- An engine step, a host step and an idle step, each from a state that meets the invariant in the first case; also
for ConfigurationNeverChanges and NoRunOfAnAllowedInstanceStops. -/
theorem witness_EveryStepKeepsTheInvariant :
    inFlight.Inv ∧ (∃ t, step inFlight = .next t) ∧ ∃ t, step { inFlight with schedule := [.host] } = .next t :=
  ⟨inFlight_inv,
    exec_next_of_reach (.check .direction) (s := inFlight.takeTurn) (by decide), _, rfl⟩

theorem witness_NoRunOfAnAllowedInstanceStops : inFlight.Inv := inFlight_inv

theorem witness_ConfigurationNeverChanges : ∃ s t : State, step s = .next t ∧ t ≠ s :=
  ⟨pending 0x41 [] [] 0, _, rfl, by decide⟩

theorem witness_CheckComparesTheTrailer :
    (4 ≤ (idle [] 4).len.toNat ∧ (idle [] 128).len.toNat ≤ (idle [] 128).cfg.bufCap ∧ 4 ≤ (idle [] 128).len.toNat) ∧
    (idle [] 3).len.toNat < 4 ∧ (idle [] 129).cfg.bufCap < (idle [] 129).len.toNat := by decide

theorem witness_UpdateStampsTheTrailer :
    (idle [0x31] 4).buf.wf (idle [0x31] 4).cfg.bufCap = true ∧ 4 ≤ (idle [0x31] 4).len.toNat ∧
    (idle [0x31] 4).len.toNat ≤ (idle [0x31] 4).cfg.bufCap ∧
    (idle [0x31] 128).len.toNat ≤ (idle [0x31] 128).cfg.bufCap ∧ (idle [] 0).len.toNat < 4 := by decide

/-- LEN = 5 with one covered byte. -/
def short : State := idle [0x31] 5

/-- `short` after UPDATE with seed 0xA2. -/
def stamped : State := short.stampTrailer (short.coveredCrc 0xA2)

theorem exec_short : exec (.update .direction) short = .next stamped :=
  execUpdate_of_lengthOk .direction (by decide)

theorem witness_UpdateThenCheckMatches :
    ∃ s t r : State, s.buf.wf s.cfg.bufCap = true ∧ 4 ≤ s.len.toNat ∧ s.len.toNat ≤ s.cfg.bufCap ∧
      exec (.update .direction) s = .next t ∧ r.cfg = s.cfg ∧ r.len = t.len ∧
      (∀ a, a < s.len.toNat → r.buf.read a = t.buf.read a) ∧ seedOf checkSeed .a2 r = seedOf updateSeed .direction s :=
  ⟨short, stamped, { stamped with crcResult := 0 }, by decide, by decide, by decide, exec_short, rfl, rfl,
    fun _ _ => rfl, rfl⟩

/-- The highest bit of the last covered byte. -/
theorem witness_OneFlippedBitIsDetected :
    ∃ s t r : State, s.buf.wf s.cfg.bufCap = true ∧ 4 ≤ s.len.toNat ∧ s.len.toNat ≤ s.cfg.bufCap ∧
      exec (.update .direction) s = .next t ∧ r.cfg = s.cfg ∧ r.len = t.len ∧ 0 < s.len.toNat - 4 ∧
      (∀ b, b < s.len.toNat →
        r.buf.read b = if b = 0 then t.buf.read b ^^^ BitVec.twoPow 8 7 else t.buf.read b) ∧
      seedOf checkSeed .a2 r = seedOf updateSeed .direction s :=
  ⟨short, stamped, { stamped with buf := stamped.buf.write 0 (0x31 ^^^ 0x80) }, by decide, by decide, by decide,
    exec_short, rfl, rfl, by decide, by decide +kernel, rfl⟩

theorem witness_AnotherSeedIsRejected :
    ∃ s t r : State, s.buf.wf s.cfg.bufCap = true ∧ 4 ≤ s.len.toNat ∧ s.len.toNat ≤ s.cfg.bufCap ∧
      exec (.update .direction) s = .next t ∧ r.cfg = s.cfg ∧ r.len = t.len ∧
      (∀ a, a < s.len.toNat → r.buf.read a = t.buf.read a) ∧
      seedOf checkSeed .direction r ≠ seedOf updateSeed .direction s :=
  ⟨short, stamped, stamped, by decide, by decide, by decide, exec_short, rfl, rfl, fun _ _ => rfl, by decide⟩

/-- The second buffer has another trailer. -/
theorem witness_UpdateIsIdempotent :
    (∃ s t r : State, s.buf.wf s.cfg.bufCap = true ∧ r.buf.wf s.cfg.bufCap = true ∧ 4 ≤ s.len.toNat ∧
      s.len.toNat ≤ s.cfg.bufCap ∧ exec (.update .direction) s = .next t ∧ r.cfg = s.cfg ∧ r.len = s.len ∧
      seedOf updateSeed .a2 r = seedOf updateSeed .direction s ∧
      ∀ a, a < s.len.toNat - 4 → r.buf.read a = s.buf.read a) ∧
    (∃ s t r : State, exec (.update .direction) s = .next t ∧ r.buf = t.buf) ∧
    ∃ s u : State, exec (.check .direction) s = .next u :=
  ⟨⟨short, stamped, idle [0x31, 0xFF] 5, by decide, by decide, by decide, by decide, exec_short, rfl, rfl, rfl,
    by decide⟩, ⟨short, stamped, stamped, exec_short, rfl⟩,
    short, exec_next_of_reach (.check .direction) (by decide)⟩

theorem witness_CheckReadsOnlyBelowLen :
    ∃ s r : State, r.cfg = s.cfg ∧ r.len = s.len ∧ seedOf checkSeed .a1 r = seedOf checkSeed .direction s ∧
      (∀ a, a < s.len.toNat → r.buf.read a = s.buf.read a) ∧ r.buf ≠ s.buf ∧ 4 ≤ s.len.toNat ∧
      s.len.toNat ≤ s.cfg.bufCap :=
  ⟨idle [] 4, idle [0, 0, 0, 0, 1] 4, by decide⟩

theorem witness_DecodeUnpacksTheReport :
    (∃ s : State, s.cfg.wf = true ∧ s.len = 64 ∧ s.buf.read 0 = 0x01) ∧
    ∃ s : State, s.cfg.wf = true ∧ s.len = 78 ∧ s.buf.read 0 = 0x31 :=
  ⟨⟨idle [0x01] 64, by decide⟩, ⟨idle [0x31] 78, by decide⟩⟩

theorem witness_DecodeChecksLengthThenReportId :
    (idle [0x01] 65).len ≠ 64#16 ∧ (idle [0x31] 77).len ≠ 78#16 ∧
    ((idle [0x31] 64).cfg.wf = true ∧ (idle [0x31] 64).len = 64#16 ∧ (idle [0x31] 64).buf.read 0 ≠ 0x01#8) ∧
    (idle [0x01] 78).cfg.wf = true ∧ (idle [0x01] 78).len = 78#16 ∧ (idle [0x01] 78).buf.read 0 ≠ 0x31#8 := by decide

/-- The two buffers differ at the reserved offset 12. -/
theorem witness_DecodeIgnoresReservedBytes :
    ∃ s r : State, s.cfg.wf = true ∧ r.cfg.wf = true ∧ r.len = s.len ∧ r.buf ≠ s.buf ∧
      ∀ a, reportFieldOffset a → r.buf.read a = s.buf.read a := by
  refine ⟨idle [0x01] 64, idle ([0x01] ++ List.replicate 11 0 ++ [0xDE]) 64, by decide, by decide, rfl, by decide, ?_⟩
  intro a ha
  have : 12 ≠ a := by unfold reportFieldOffset at ha; omega
  have e : (idle ([0x01] ++ List.replicate 11 0 ++ [0xDE]) 64).buf = [(0, 0x01), (12, 0xDE)] := by decide
  have e' : (idle [0x01] 64).buf = [(0, 0x01)] := by decide
  rw [e, e']
  simp only [Memory.read, if_neg this]

theorem witness_ReportRegistersDetermineTheBytes :
    ∃ s r t u : State, exec (.decode .usb) s = .next t ∧ exec (.decode .bluetooth) r = .next u ∧
      t.reportValid = true ∧ u.reportValid = true ∧ t.rpt = u.rpt :=
  ⟨idle [0x01] 64, idle [0x31] 78, (idle [0x01] 64).decodeSucceeds, (idle [0x31] 78).decodeSucceeds,
    execDecode_of_valid (by decide) (by decide) (by decide), execDecode_of_valid (by decide) (by decide) (by decide),
    rfl, rfl, by decide⟩

/-- One state for each command; a DECODE that fails; an UPDATE whose length fails. -/
theorem witness_CommandFrame :
    short.buf.wf short.cfg.bufCap = true ∧ (∃ t, exec (.check .a1) short = .next t) ∧
    exec (.update .direction) short = .next stamped ∧
    (∃ t, exec (.decode .usb) short = .next t ∧ t.reportValid = false) ∧
    (∃ t, exec (.update .a1) (idle [] 3) = .next t) ∧ stamped.buf.read 1 ≠ short.buf.read 1 :=
  ⟨by decide, exec_next_of_reach _ (by decide), exec_short, ⟨_, execDecode_of_lengthBad (by decide), rfl⟩,
    exec_next_of_reach _ (by decide), by decide +kernel⟩

theorem witness_FlagTable :
    (idle [] 0).busy = false ∧ (inFlight.busy = true ∧ busError inFlight.cfg 0x100 1 = false) ∧
    (4 ≤ (idle [] 4).len.toNat ∧ (idle [] 4).len.toNat ≤ (idle [] 4).cfg.bufCap) ∧
    (idle [] 129).cfg.bufCap < (idle [] 129).len.toNat ∧
    ((idle [0x01] 64).cfg.wf = true ∧ (idle [0x01] 64).len.toNat = transportSize .usb ∧
      (idle [0x01] 64).buf.read 0 = transportReportId .usb) ∧
    (idle [] 63).len.toNat ≠ transportSize .usb ∧
    (idle [] 78).buf.read 0 ≠ transportReportId .bluetooth ∧
    ((pending 0x41 [] [] 0).pending = some 0x41 ∧ classify 0x41 = none) ∧
    (pending 0x41 [.reset []] [] 0).inputs = .reset [] :: [] := by decide

/-- BUSY set by a CMD write, cleared by a completion and cleared by reset. -/
theorem witness_BusyChangesOnlyByCommandOrReset :
    (∃ s t : State, step s = .next t ∧ s.busy = false ∧ t.busy = true) ∧
    (∃ s t : State, step s = .next t ∧ s.busy = true ∧ t.busy = false ∧ s.turn = some .engine) ∧
    ∃ s t : State, step s = .next t ∧ s.busy = true ∧ t.busy = false ∧ s.nextIsReset :=
  ⟨⟨{ idle [] 0 with inputs := [cmdWord Config.reference 1] }, _, rfl, by decide⟩,
    ⟨pending 0x41 [] [] 0, _, rfl, by decide⟩,
    ⟨{ pending 0x41 [.reset [0x55]] [] 0 with schedule := [.host] }, _, rfl, by decide, by decide, [0x55], [], rfl⟩⟩

/-- OVR set by a dropped buffer write, cleared by STATUS bit 4 and by reset. -/
theorem witness_OverrunIsSticky :
    (∃ s t : State, step s = .next t ∧ s.ovr = false ∧ t.ovr = true) ∧
    (∃ s t : State, step s = .next t ∧ s.ovr = true ∧ t.ovr = false ∧ ¬s.busy) ∧
    ∃ s t : State, step s = .next t ∧ s.ovr = true ∧ t.ovr = false ∧ s.nextIsReset :=
  ⟨⟨{ pending 1 [writeAt Config.reference 0x17F 1 0xFF] [] 0 with schedule := [.host] }, _, rfl, by decide⟩,
    ⟨{ idle [] 0 with ovr := true, inputs := [clear Config.reference] }, _, rfl, by decide⟩,
    ⟨{ idle [] 0 with ovr := true, inputs := [.reset []] }, _, rfl, rfl, by decide, [], [], rfl⟩⟩

theorem witness_ResultsChangeOnlyAtCompletion :
    (∃ s t : State, step s = .next t ∧ t.results ≠ s.results ∧ s.busy = true) ∧
    ∃ s t : State, step s = .next t ∧ t.results ≠ s.results ∧ s.nextIsReset :=
  ⟨⟨pending 0x41 [] [] 0, _, rfl, by decide⟩,
    ⟨{ idle [] 0 with crcResult := 1, inputs := [.reset []] }, _, rfl, by decide, [], [], rfl⟩⟩

theorem witness_ReportChangesOnlyBySuccessfulDecode :
    (∃ s t : State, step s = .next t ∧ t.rpt ≠ s.rpt ∧ s.nextIsCommand (.decode .usb)) ∧
    ∃ s t : State, step s = .next t ∧ t.rpt ≠ s.rpt ∧ s.nextIsReset :=
  ⟨⟨pending 3 [] [0x01, 0x80] 64, (pending 3 [] [0x01, 0x80] 64).decodeSucceeds,
      execDecode_of_valid (t := .usb) (s := pending 3 [] [0x01, 0x80] 64) (by decide) (by decide) (by decide),
      by decide, by decide, 3, by decide, by decide⟩,
    ⟨{ idle [] 0 with rpt := reportOfVector, inputs := [.reset []] }, _, rfl, by decide, [], [], rfl⟩⟩

/-- LEN, SEED and the last byte of BUF written while idle, from states that meet the invariant. -/
theorem witness_OperandsChangeOnlyWhileIdle :
    ∃ s : State, s.Inv ∧
      (∃ t, step s = .next t ∧ t.len ≠ s.len) ∧
      (∃ t, step { s with inputs := [setSeed Config.reference 0xA2] } = .next t ∧ t.seed ≠ s.seed) ∧
      ∃ t, step { s with inputs := [writeAt Config.reference 0x17F 1 0xFF] } = .next t ∧
        t.buf.read 127 ≠ s.buf.read 127 :=
  ⟨{ idle [] 0 with inputs := [setLen Config.reference 78] },
    ⟨by decide, by decide, by decide, by decide, by decide, by decide, by decide, by decide, by decide, by decide,
      by decide, by decide, by decide⟩,
    ⟨_, rfl, by decide⟩, ⟨_, rfl, by decide⟩, ⟨_, rfl, by decide⟩⟩

/-- A performed access at each end of each range; also for BufferWindowIsLittleEndian. -/
theorem witness_PerformedAccesses :
    Config.reference.wf = true ∧ busError Config.reference 0x000 4 = false ∧ busError Config.reference 0x06C 4 = false ∧
    busError Config.reference 0x100 4 = false ∧ busError Config.reference 0x17F 1 = false ∧
    busError Config.reference 0x180 1 = true := by decide

theorem witness_BusErrorChangesNothing : busError (idle [] 0).cfg 0x200 4 = true := by decide

theorem witness_AccessesActAtTheirOffset : ∃ s : State, s.cfg.wf = true ∧ 0x1FF < s.cfg.blockBase :=
  ⟨State.resetOf ⟨128, 0x200, .prefixByte⟩ [], by decide⟩

theorem witness_IdleRegisterReads : (idle [0x31] 78).busy = false := by decide

/-- An idle state whose last command failed. -/
theorem witness_IdleCmdWriteIsAccepted : ∃ s : State, s.busy = false ∧ s.errcode = 3 :=
  ⟨{ idle [0x31] 78 with errcode := 3 }, by decide⟩

theorem witness_OperandRegistersReadBack : (idle [0x31] 0xFFFF).busy = false := by decide

/-- Busy and idle. -/
theorem witness_ReservedBitsReadZero : inFlight.cfg.wf = true ∧ (idle [] 0).cfg.wf = true := by decide

theorem witness_BufferWindowIsLittleEndian :
    (idle [0x31] 0).buf.wf (idle [0x31] 0).cfg.bufCap = true ∧ (idle [0x31] 0).busy = false ∧
    busError (idle [0x31] 0).cfg 0x100 2 = false ∧ busError (idle [0x31] 0).cfg 0x17C 4 = false := by decide

theorem witness_ReadsAndRepeatedWritesHaveNoEffect : (idle [0x31] 0).buf.wf (idle [0x31] 0).cfg.bufCap = true := by
  decide

theorem witness_WritesWhileBusyAreDropped :
    inFlight.busy = true ∧ busError inFlight.cfg 0x008 4 = false ∧ busError inFlight.cfg 0x010 4 = false ∧
    busError inFlight.cfg 0x014 4 = false ∧ busError inFlight.cfg 0x17F 1 = false := by decide

/-- An UPDATE in flight with LEN = 128: the last trailer byte is drawn, the byte before the trailer is not. -/
theorem witness_ReadsWhileBusy :
    (pending 2 [] [] 128).busy = true ∧ busError (pending 2 [] [] 128).cfg 0x17F 1 = false ∧
    (pending 2 [] [] 128).trailerUnstable 127 = true ∧ (pending 2 [] [] 128).trailerUnstable 123 = false ∧
    (pending 1 [] [] 128).trailerUnstable 127 = false := by decide

theorem witness_NoDrawAfterBusyReadsZero :
    ∃ x : Word, (hostRead (idle [] 0) 0x00C 4).responses.head? = some (.value x) ∧ x.getLsbD 0 = false :=
  ⟨0, by decide⟩

theorem witness_WaitEndsWhenBusyReadsZero :
    (∃ s : State, s.busy = false ∧ s.inputs = .wait :: []) ∧ ∃ s : State, s.busy = true ∧ s.inputs = .wait :: [.wait] :=
  ⟨⟨{ idle [] 0 with inputs := [.wait] }, by decide⟩, ⟨pending 1 [.wait, .wait] [] 0, by decide⟩⟩

/-- Two states that differ in what was answered and drawn. -/
theorem witness_DrawsNeverReachTheBlock :
    ∃ s t s' : State, s.block = t.block ∧ s.inputs = t.inputs ∧ s.schedule = t.schedule ∧ s.draws ≠ t.draws ∧
      step s = .next s' :=
  ⟨pending 0x41 [] [] 0, { pending 0x41 [] [] 0 with responses := [.ok], draws := 7 }, _, rfl, rfl, rfl, by decide, rfl⟩

theorem witness_ResetValues : (Config.mk 256 0xFE00 .prefixByte).wf = true := by decide

theorem witness_ResetInputAbandonsTheCommand :
    ∃ s : State, s.busy = true ∧ s.buf.wf s.cfg.bufCap = true ∧ s.inputs = .reset [0x55] :: [.wait] ∧
      Memory.wf s.cfg.bufCap [(127, 0x01#8)] = true :=
  ⟨pending 1 [.reset [0x55], .wait] [0x31] 78, by decide⟩

end Sys2Proof.Tests
end

section
/-! PROOFS. The statements of spec/00_scope.md: where an access acts (R7, R62), and that what the host was answered and
what it drew never reach the block (R14, R73). -/
namespace Sys2Proof.Machine

/-! ## Bus addresses -/

/-- R62: the offset of an address in the aperture. -/
@[simp] theorem Config.offsetOf_blockBase_add (cfg : Config) (off : Nat) :
    Config.offsetOf cfg (cfg.blockBase + off) = some off := by
  simp [Config.offsetOf]

theorem Config.offsetOf_of_lt {cfg : Config} {addr : Nat} (h : addr < cfg.blockBase) :
    Config.offsetOf cfg addr = none :=
  if_neg (by omega)

/-- Settles O37: a waiting access is performed at the offset of its address, so each clause is the offset of that
address. -/
theorem accessesActAtTheirOffset : Obligations.AccessesActAtTheirOffset := by
  intro s off n addr v rest
  refine ⟨?_, ?_, fun hlt => ⟨?_, ?_⟩⟩
  · rw [hostStep_access rfl]
    simp [hostAccess]
  · rw [hostStep_access rfl]
    simp [hostAccess]
  · rw [hostStep_access rfl]
    simp [hostAccess, Config.offsetOf_of_lt hlt, State.respond]
  · rw [hostStep_access rfl]
    simp [hostAccess, Config.offsetOf_of_lt hlt, State.respond]

/-! ## The host's view -/

/-- `s` with another history of answers and another count of draws: the host's view, which R14 and R73 keep out of the
block. -/
def State.withView (s : State) (rs : List Response) (dr : Nat) : State := { s with responses := rs, draws := dr }

/-- `s` and `t` differ at most in the host's view: the relation that steps keep. -/
structure State.Agrees (s t : State) : Prop where
  block : s.block = t.block
  inputs : s.inputs = t.inputs
  schedule : s.schedule = t.schedule

theorem State.agrees_withView (s : State) (rs : List Response) (dr : Nat) : s.Agrees (s.withView rs dr) :=
  ⟨rfl, rfl, rfl⟩

/-- States that agree differ in nothing but the view. -/
theorem State.Agrees.exists_withView {s t : State} (h : s.Agrees t) : ∃ rs dr, t = s.withView rs dr := by
  obtain ⟨hb, hi, hs⟩ := h
  rw [State.block_eq_iff] at hb
  refine ⟨t.responses, t.draws, ?_⟩
  cases s
  cases t
  simp_all [State.withView]

/-! ### Accesses -/

theorem hostRead_agrees {s t : State} (h : s.Agrees t) (off n : Nat) : (hostRead s off n).Agrees (hostRead t off n) :=
  ⟨by simpa using h.block, by simpa using h.inputs, by simpa using h.schedule⟩

/-- A performed write neither reads nor changes the view. -/
theorem writeValue_withView (s : State) (rs : List Response) (dr off n : Nat) (v : Word) :
    (s.withView rs dr).writeValue off n v = (s.writeValue off n v).withView rs dr := by
  have hbusy (k : State) : (s.withView rs dr).unlessBusy (k.withView rs dr) = (s.unlessBusy k).withView rs dr :=
    (apply_ite (State.withView · rs dr) (s.busy = true) s.dropWrite k).symm
  unfold State.writeValue
  split
  · cases regAt off with
    | none => rfl
    | some r =>
      cases r with
      | cmd => exact hbusy (s.issue v)
      | len => exact hbusy { s with len := v.setWidth 16 }
      | seed => exact hbusy { s with seed := v.setWidth 8 }
      | _ => rfl
  · exact hbusy { s with buf := memWrite s.buf (off - bufferBase) n v }

theorem hostWrite_agrees {s t : State} (h : s.Agrees t) (off n : Nat) (v : Word) :
    (hostWrite s off n v).Agrees (hostWrite t off n v) := by
  obtain ⟨rs, dr, rfl⟩ := h.exists_withView
  rcases hostWrite_cases s off n v with ⟨he, hw⟩ | ⟨he, hw⟩
  · have hw' : hostWrite (s.withView rs dr) off n v = (s.withView rs dr).respond .busError := if_pos he
    rw [hw, hw']
    exact ⟨rfl, rfl, rfl⟩
  · have hw' : hostWrite (s.withView rs dr) off n v = ((s.withView rs dr).writeValue off n v).respond .ok :=
      if_neg (by simp [State.withView, he])
    rw [hw, hw', writeValue_withView]
    exact ⟨rfl, rfl, rfl⟩

theorem hostAccess_agrees {s t : State} (h : s.Agrees t) (a : Access) : (hostAccess s a).Agrees (hostAccess t a) := by
  have hcfg : t.cfg = s.cfg := ((State.block_eq_iff s t).mp h.block).1.symm
  cases a with
  | read addr n =>
    simp only [hostAccess, hcfg]
    cases Config.offsetOf s.cfg addr with
    | none => exact ⟨h.block, h.inputs, h.schedule⟩
    | some off => exact hostRead_agrees h off n
  | write addr n v =>
    simp only [hostAccess, hcfg]
    cases Config.offsetOf s.cfg addr with
    | none => exact ⟨h.block, h.inputs, h.schedule⟩
    | some off => exact hostWrite_agrees h off n v

/-! ### Steps -/

/-- With no event waiting the host's step changes nothing. -/
theorem hostStep_nil {s : State} (h : s.inputs = []) : hostStep s = s := by
  simp [hostStep, h]

theorem hostStep_agrees {s t : State} (h : s.Agrees t) : (hostStep s).Agrees (hostStep t) := by
  obtain ⟨rs, dr, rfl⟩ := h.exists_withView
  have hview (ins : List Input) :
      State.Agrees { s with inputs := ins } { s.withView rs dr with inputs := ins } := ⟨rfl, rfl, rfl⟩
  cases hin : s.inputs with
  | nil =>
    have hin' : (s.withView rs dr).inputs = [] := hin
    rw [hostStep_nil hin, hostStep_nil hin']
    exact s.agrees_withView rs dr
  | cons e rest =>
    have hin' : (s.withView rs dr).inputs = e :: rest := hin
    cases e with
    | access a =>
      rw [hostStep_access hin, hostStep_access hin']
      exact hostAccess_agrees (hview rest) a
    | wait =>
      rw [hostStep_wait hin, hostStep_wait hin']
      exact hostRead_agrees (hview _) statusOffset 4
    | reset contents =>
      rw [hostStep_reset hin, hostStep_reset hin']
      exact ⟨rfl, rfl, rfl⟩

/-- `exec_outside` for the view alone, with the events and the schedule left as they are. -/
theorem exec_withView {i : Instr} {s s' : State} (rs : List Response) (dr : Nat) (h : exec i s = .next s') :
    exec i (s.withView rs dr) = .next (s'.withView rs dr) := by
  have hkeep := exec_outside s.inputs s.schedule s.responses s.draws h
  have hself : s' = { s' with inputs := s.inputs, schedule := s.schedule, responses := s.responses, draws := s.draws } :=
    Host.Outcome.next.inj (h.symm.trans hkeep)
  have hmove := exec_outside s.inputs s.schedule rs dr h
  rw [hself]
  exact hmove

/-- The engine neither reads nor changes the view. -/
theorem engineStep_withView {s s' : State} (rs : List Response) (dr : Nat) (h : engineStep s = .next s') :
    engineStep (s.withView rs dr) = .next (s'.withView rs dr) := by
  obtain ⟨w, hw, ⟨i, hi, he⟩ | ⟨hi, rfl⟩⟩ := engineStep_cases h
  · have hrun : engineStep (s.withView rs dr) = exec i (s.withView rs dr) := by
      simp only [engineStep, State.withView, hw, hi]
    rw [hrun]
    exact exec_withView rs dr he
  · simp only [engineStep, State.withView, hw, hi]
    rfl

theorem turn_withView (s : State) (rs : List Response) (dr : Nat) : (s.withView rs dr).turn = s.turn := rfl

theorem takeTurn_withView (s : State) (rs : List Response) (dr : Nat) :
    (s.withView rs dr).takeTurn = s.takeTurn.withView rs dr :=
  (apply_ite (State.withView · rs dr) (s.contended = true) { s with schedule := s.schedule.tail } s).symm

/-- Agreement is kept by every step: the agents take their turns alike, and neither agent's step tells the two apart. -/
theorem step_agrees {s t s' : State} (h : s.Agrees t) (hstep : step s = .next s') :
    ∃ t', step t = .next t' ∧ s'.Agrees t' := by
  obtain ⟨rs, dr, rfl⟩ := h.exists_withView
  unfold step at hstep ⊢
  rw [turn_withView, takeTurn_withView]
  cases hturn : s.turn with
  | none =>
    simp only [hturn] at hstep
    cases hstep
    exact ⟨_, rfl, s.agrees_withView rs dr⟩
  | some agent =>
    cases agent with
    | host =>
      simp only [hturn] at hstep
      cases hstep
      exact ⟨_, rfl, hostStep_agrees (s.takeTurn.agrees_withView rs dr)⟩
    | engine =>
      simp only [hturn] at hstep
      exact ⟨_, engineStep_withView rs dr hstep, s'.agrees_withView rs dr⟩

/-- Settles O51: agreement in all but the host's view is a relation every step keeps. -/
theorem drawsNeverReachTheBlock : Obligations.DrawsNeverReachTheBlock := by
  intro s t s' hblock hinputs hschedule hstep
  obtain ⟨t', ht, hb, hi, hs⟩ := step_agrees ⟨hblock, hinputs, hschedule⟩ hstep
  exact ⟨t', ht, hb, hi, hs⟩

end Sys2Proof.Machine
end

section
/-! PROOFS. The statements of spec/10_state.md: what a step can do to the block, the invariant it keeps, what commands
and steps leave unchanged, STATUS and the other registers, and the flag table. -/
namespace Sys2Proof.Machine

/-! ## Steps, as the block sees them -/

/-- Everything a step can do to the block, with the event that does it: hold it, complete the pending command, drop or
perform a write, or reset it (R24, R36 to R38, R65, R72, R75, R201, R230). -/
inductive State.BlockStep (s t : State) : Prop where
  | held (hb : t.block = s.block)
  | command {i : Instr} {u : State} (hbusy : s.busy = true) (hcmd : s.nextIsCommand i) (hexec : exec i s = .next u)
      (hb : t.block = u.block)
  | illegal (hbusy : s.busy = true) (hturn : s.turn = some .engine) (hb : t.block = s.completeIllegal.block)
  | dropped {off n : Nat} {v : Word} (hbusy : s.busy = true) (hwrite : s.nextIsWrite off n v)
      (hoff : off = 0x008 ∨ off = 0x010 ∨ off = 0x014 ∨ 0x100 ≤ off) (hb : t.block = s.dropWrite.block)
  | status {v : Word} (hwrite : s.nextIsWrite 0x00C 4 v) (hb : t.block = (s.writeStatus v).block)
  | issued {v : Word} (hidle : s.busy = false) (hwrite : s.nextIsWrite 0x008 4 v) (hb : t.block = (s.issue v).block)
  | len {v : Word} (hidle : s.busy = false) (hwrite : s.nextIsWrite 0x010 4 v)
      (hb : t.block = { s with len := v.setWidth 16 }.block)
  | seed {v : Word} (hidle : s.busy = false) (hwrite : s.nextIsWrite 0x014 4 v)
      (hb : t.block = { s with seed := v.setWidth 8 }.block)
  | buffer {off n : Nat} {v : Word} (hidle : s.busy = false) (hwrite : s.nextIsWrite off n v) (hoff : 0x100 ≤ off)
      (hb : t.block = { s with buf := memWrite s.buf (off - 0x100) n v }.block)
  | reset (c : List Byte) (hreset : s.nextIsReset) (hb : t.block = (s.resetInput c).block)

/-! ### Performed writes -/

theorem State.unlessBusy_of_busy {s : State} (h : s.busy = true) (k : State) : s.unlessBusy k = s.dropWrite := if_pos h

theorem State.unlessBusy_of_idle {s : State} (h : s.busy = false) (k : State) : s.unlessBusy k = k :=
  if_neg (by simp [h])

theorem State.writeValue_reg (s : State) {off : Nat} {r : Reg} (h : regAt off = some r) (n : Nat) (v : Word) :
    s.writeValue off n v = s.writeReg v r := by
  have hoff : off < bufferBase := (regAt_eq_some_iff off r).mp h ▸ r.offset_bounds.1
  simp only [State.writeValue, if_pos hoff, h]

theorem State.writeValue_buffer (s : State) {off : Nat} (h : 0x100 ≤ off) (n : Nat) (v : Word) :
    s.writeValue off n v = s.unlessBusy { s with buf := memWrite s.buf (off - 0x100) n v } :=
  if_neg (Nat.not_lt.mpr h)

/-- A performed access to the register window has four bytes and names a register (R63, R64). -/
theorem busError_register {cfg : Config} {off n : Nat} (ho : off < 0x100) (he : busError cfg off n = false) :
    n = 4 ∧ ∃ r, regAt off = some r := by
  simp only [busError, decide_eq_false_iff_not, not_or, not_and, bufferBase, not_not] at he
  obtain ⟨-, -, -, hreg, -⟩ := he
  exact ⟨(hreg ho).1, Option.ne_none_iff_exists'.mp (hreg ho).2⟩

/-- What a performed write does sees only the block. -/
theorem block_writeValue_block (s : State) (off n : Nat) (v : Word) :
    (s.block.writeValue off n v).block = (s.writeValue off n v).block := by
  have hbusy (k l : State) (hkl : k.block = l.block) : (s.block.unlessBusy k).block = (s.unlessBusy l).block := by
    cases hb : s.busy with
    | true => rw [State.unlessBusy_of_busy hb, State.unlessBusy_of_busy (s := s.block) hb]; rfl
    | false => rw [State.unlessBusy_of_idle hb, State.unlessBusy_of_idle (s := s.block) hb, hkl]
  by_cases ho : 0x100 ≤ off
  · rw [State.writeValue_buffer _ ho, State.writeValue_buffer _ ho]
    exact hbusy _ _ rfl
  · cases hr : regAt off with
    | none => simp [State.writeValue, hr, bufferBase, Nat.lt_of_not_le ho]
    | some r =>
      rw [State.writeValue_reg _ hr, State.writeValue_reg _ hr]
      cases r with
      | cmd => exact hbusy _ _ rfl
      | len => exact hbusy _ _ rfl
      | seed => exact hbusy _ _ rfl
      | _ => rfl

theorem block_writeValue_takeTurn (s : State) (off n : Nat) (v : Word) :
    (s.takeTurn.writeValue off n v).block = (s.writeValue off n v).block := by
  rw [← block_writeValue_block, State.block_takeTurn, block_writeValue_block]

theorem State.block_unlessBusy_cases {s k : State} {b : State} (hb : b = (s.unlessBusy k).block) :
    (s.busy = true ∧ b = s.dropWrite.block) ∨ (s.busy = false ∧ b = k.block) := by
  cases hbusy : s.busy with
  | true => exact .inl ⟨rfl, by rwa [State.unlessBusy_of_busy hbusy] at hb⟩
  | false => exact .inr ⟨rfl, by rwa [State.unlessBusy_of_idle hbusy] at hb⟩

theorem State.nextIsWrite.performed {s : State} {off n : Nat} {v : Word} (h : s.nextIsWrite off n v) :
    busError s.cfg off n = false := by
  obtain ⟨-, -, -, -, he⟩ := h
  exact he

/-- A waiting write that the port performs is one of the writes of `BlockStep`. -/
theorem State.nextIsWrite.blockStep {s t : State} {off n : Nat} {v : Word} (h : s.nextIsWrite off n v)
    (hb : t.block = (s.writeValue off n v).block) : s.BlockStep t := by
  by_cases ho : 0x100 ≤ off
  · rw [State.writeValue_buffer s ho] at hb
    rcases State.block_unlessBusy_cases hb with ⟨hbusy, hb⟩ | ⟨hidle, hb⟩
    · exact .dropped hbusy h (.inr (.inr (.inr ho))) hb
    · exact .buffer hidle h ho hb
  · obtain ⟨rfl, r, hr⟩ := busError_register (Nat.lt_of_not_le ho) h.performed
    rw [State.writeValue_reg s hr] at hb
    obtain rfl := (regAt_eq_some_iff off r).mp hr
    cases r with
    | status => exact .status h hb
    | cmd =>
      rcases State.block_unlessBusy_cases hb with ⟨hbusy, hb⟩ | ⟨hidle, hb⟩
      · exact .dropped hbusy h (.inl rfl) hb
      · exact .issued hidle h hb
    | len =>
      rcases State.block_unlessBusy_cases hb with ⟨hbusy, hb⟩ | ⟨hidle, hb⟩
      · exact .dropped hbusy h (.inr (.inl rfl)) hb
      · exact .len hidle h hb
    | seed =>
      rcases State.block_unlessBusy_cases hb with ⟨hbusy, hb⟩ | ⟨hidle, hb⟩
      · exact .dropped hbusy h (.inr (.inr (.inl rfl))) hb
      · exact .seed hidle h hb
    | _ => exact .held hb

/-! ### The engine and the host -/

theorem State.takeTurn_eq (s : State) : ∃ sch, s.takeTurn = { s with schedule := sch } := by
  unfold State.takeTurn
  split
  · exact ⟨_, rfl⟩
  · exact ⟨s.schedule, rfl⟩

theorem engineStep_blockStep {s t : State} (hbusy : s.busy = true) (hturn : s.turn = some .engine)
    (h : engineStep s.takeTurn = .next t) : s.BlockStep t := by
  obtain ⟨sch, hs⟩ := s.takeTurn_eq
  rw [hs] at h
  obtain ⟨w, hw, ⟨i, hi, hexec⟩ | ⟨-, rfl⟩⟩ := engineStep_cases h
  · have hexec' := exec_outside s.inputs s.schedule s.responses s.draws hexec
    exact .command hbusy ⟨hturn, w, hw, hi⟩ hexec' rfl
  · exact .illegal hbusy hturn rfl

theorem hostStep_blockStep (s : State) : s.BlockStep (hostStep s.takeTurn) := by
  rcases hostStep_cases s.takeTurn with hb | ⟨off, n, v, hw, hb⟩ | ⟨c, rest, hin, hr⟩
  · exact .held (by rw [hb, State.block_takeTurn])
  · simp only [State.nextIsWrite, State.takeTurn_inputs, State.takeTurn_cfg] at hw
    exact State.nextIsWrite.blockStep hw (by rw [hb, block_writeValue_takeTurn])
  · obtain ⟨sch, hs⟩ := s.takeTurn_eq
    rw [hr, hs]
    exact .reset c ⟨c, rest, by simpa using hin⟩ rfl

/-- Every step is one of those `BlockStep` lists. -/
theorem step_blockStep {s t : State} (h : step s = .next t) : s.BlockStep t := by
  rcases step_cases h with ⟨-, -, rfl⟩ | ⟨hbusy, hturn, he⟩ | ⟨-, -, rfl⟩
  · exact .held rfl
  · exact engineStep_blockStep hbusy hturn he
  · exact hostStep_blockStep s

/-! ## The invariant -/

/-- The six motion registers hold sign-extended values (R44, R45): the report's part of the invariant. -/
def Report.MotionExtended (r : Report) : Prop :=
  signExtended r.gyroX ∧ signExtended r.gyroY ∧ signExtended r.gyroZ ∧
  signExtended r.accelX ∧ signExtended r.accelY ∧ signExtended r.accelZ

theorem signExtended_zero : signExtended 0 := by decide

theorem signExtended_s16At (m : Memory) (p : Nat) : signExtended (s16At m p) := by
  have hlow : ((le16 m p).signExtend 32).setWidth 16 = le16 m p := by
    ext i hi
    have hi' : i < 32 := by omega
    simp [BitVec.getElem_signExtend, hi, hi']
  rw [signExtended, s16At, hlow]

theorem unpackReport_motionExtended (m : Memory) : (unpackReport m).MotionExtended :=
  ⟨signExtended_s16At m 16, signExtended_s16At m 18, signExtended_s16At m 20, signExtended_s16At m 22,
    signExtended_s16At m 24, signExtended_s16At m 26⟩

theorem State.Inv.motionExtended {s : State} (h : s.Inv) : s.rpt.MotionExtended :=
  ⟨h.gyroX, h.gyroY, h.gyroZ, h.accelX, h.accelY, h.accelZ⟩

theorem State.inv_block {s : State} : s.block.Inv ↔ s.Inv :=
  ⟨fun h => { h with }, fun h => { h with }⟩

/-- The invariant speaks of the block alone. -/
theorem State.Inv.of_block {s t : State} (h : s.Inv) (hb : t.block = s.block) : t.Inv :=
  State.inv_block.mp (hb ▸ State.inv_block.mpr h)

theorem State.Inv.issue {s : State} (h : s.Inv) (w : Word) : (s.issue w).Inv :=
  { h with pending := rfl, done := fun _ => rfl }

theorem State.Inv.dropWrite {s : State} (h : s.Inv) : s.dropWrite.Inv := { h with }

theorem State.Inv.writeStatus {s : State} (h : s.Inv) (v : Word) : (s.writeStatus v).Inv :=
  { h with done := fun hb => by simp [State.writeStatus, h.done hb] }

theorem State.Inv.withLen {s : State} (h : s.Inv) (l : Half) : State.Inv { s with len := l } := { h with }

theorem State.Inv.withSeed {s : State} (h : s.Inv) (b : Byte) : State.Inv { s with seed := b } := { h with }

theorem State.Inv.withBuf {s : State} (h : s.Inv) {m : Memory} (hm : m.wf s.cfg.bufCap = true) :
    State.Inv { s with buf := m } := { h with buf := hm }

/-- R231: the state right after reset is one the spec describes, whatever canonical contents BUF holds. -/
theorem State.inv_resetOf {cfg : Config} {m : Memory} (hc : cfg.wf = true) (hm : m.wf cfg.bufCap = true) :
    (State.resetOf cfg m).Inv where
  cfg := hc
  buf := hm
  pending := rfl
  done h := nomatch h
  errcode := Nat.zero_le 4
  crcOk h := nomatch h
  reportId _ := rfl
  gyroX := signExtended_zero
  gyroY := signExtended_zero
  gyroZ := signExtended_zero
  accelX := signExtended_zero
  accelY := signExtended_zero
  accelZ := signExtended_zero

theorem State.Inv.resetInput {s : State} (h : s.Inv) (c : List Byte) : (s.resetInput c).Inv :=
  (State.inv_resetOf h.cfg (wf_overlay h.buf 0 c)).of_block rfl

theorem ErrCode.toNat_code_le (e : ErrCode) : e.code.toNat ≤ 4 := by
  cases e <;> decide

theorem ErrCode.code_eq_two {e : ErrCode} : e.code = 2 ↔ e = .unexpectedReportId := by
  cases e <;> decide

/-- What a completion needs to leave the block in a state the spec describes: CRC_OK only with NONE (R32), and
REPORT_VALID 0 with UNEXPECTED_REPORT_ID (R33).  The flags before it do not matter. -/
theorem State.inv_complete {s : State} {e : ErrCode} {v : Bool} (hc : s.cfg.wf = true)
    (hm : s.buf.wf s.cfg.bufCap = true) (hr : s.rpt.MotionExtended) (hok : v = true → e = .none)
    (hid : e = .unexpectedReportId → s.reportValid = false) : (s.complete e v).Inv := by
  obtain ⟨hgx, hgy, hgz, hax, hay, haz⟩ := hr
  exact {
    cfg := hc, buf := hm, pending := rfl, done := fun h => nomatch h
    errcode := e.toNat_code_le
    crcOk := fun h => by rw [State.complete_errcode, hok h]; rfl
    reportId := fun h => hid (ErrCode.code_eq_two.mp h)
    gyroX := hgx, gyroY := hgy, gyroZ := hgz, accelX := hax, accelY := hay, accelZ := haz }

theorem State.Inv.completeIllegal {s : State} (h : s.Inv) : s.completeIllegal.Inv :=
  State.inv_complete h.cfg h.buf h.motionExtended nofun nofun

theorem exec_inv {i : Instr} {s t : State} (h : s.Inv) (hexec : exec i s = .next t) : t.Inv := by
  rcases exec_cases hexec with ⟨_, -, -, rfl⟩ | ⟨_, -, hl, rfl⟩ | ⟨-, -, rfl⟩ | ⟨_, -, -, rfl⟩ | ⟨_, -, -, -, rfl⟩ |
    ⟨_, -, -, -, rfl⟩
  · unfold State.compareTrailer
    split
    · exact State.inv_complete h.cfg h.buf h.motionExtended (fun _ => rfl) nofun
    · exact State.inv_complete h.cfg h.buf h.motionExtended nofun nofun
  · have hlen := s.checkerLengthOk_iff.mp hl
    have hend : s.trailerAt + 4 ≤ s.cfg.bufCap := by rw [State.trailerAt_eq]; omega
    exact State.inv_complete h.cfg (wf_memWrite h.buf hend _) h.motionExtended nofun nofun
  · exact State.inv_complete h.cfg h.buf h.motionExtended nofun nofun
  · exact State.inv_complete h.cfg h.buf h.motionExtended nofun nofun
  · exact State.inv_complete h.cfg h.buf h.motionExtended nofun fun _ => rfl
  · exact State.inv_complete h.cfg h.buf (unpackReport_motionExtended s.buf) nofun nofun

theorem State.nextIsWrite.buffer_bounds {s : State} {off n : Nat} {v : Word} (h : s.nextIsWrite off n v)
    (ho : 0x100 ≤ off) : off - 0x100 + n ≤ s.cfg.bufCap :=
  (busError_buffer ho h.performed).2

/-- Settles O10: each way a step can touch the block keeps the invariant. -/
theorem everyStepKeepsTheInvariant : Obligations.EveryStepKeepsTheInvariant := by
  intro s t h hstep
  cases step_blockStep hstep with
  | held hb => exact h.of_block hb
  | command _ _ hexec hb => exact (exec_inv h hexec).of_block hb
  | illegal _ _ hb => exact h.completeIllegal.of_block hb
  | dropped _ _ _ hb => exact h.dropWrite.of_block hb
  | status _ hb => exact (h.writeStatus _).of_block hb
  | issued _ _ hb => exact (h.issue _).of_block hb
  | len _ _ hb => exact (h.withLen _).of_block hb
  | seed _ _ hb => exact (h.withSeed _).of_block hb
  | buffer _ hwrite ho hb => exact (h.withBuf (wf_memWrite h.buf (hwrite.buffer_bounds ho) _)).of_block hb
  | reset c _ hb => exact (h.resetInput c).of_block hb

/-- Settles O9: the base case of the invariant. -/
theorem resetMeetsTheInvariant : Obligations.ResetMeetsTheInvariant :=
  ⟨fun _ _ hc hm => State.inv_resetOf hc hm, State.inv_resetOf (by decide) rfl⟩

/-! ## Commands: what they leave unchanged -/

/-- What no command touches (R21, R34, R37, R38). -/
theorem exec_frame {i : Instr} {s t : State} (h : exec i s = .next t) :
    t.cfg = s.cfg ∧ t.len = s.len ∧ t.seed = s.seed ∧ t.ovr = s.ovr ∧ t.inputs = s.inputs ∧
    t.schedule = s.schedule ∧ t.responses = s.responses ∧ t.draws = s.draws := by
  rcases exec_cases h with ⟨_, -, -, rfl⟩ | ⟨_, -, -, rfl⟩ | ⟨-, -, rfl⟩ | ⟨_, -, -, rfl⟩ | ⟨_, -, -, -, rfl⟩ |
    ⟨_, -, -, -, rfl⟩ <;> simp

/-- What the completion of every command writes (R24, R203). -/
theorem exec_completes {i : Instr} {s t : State} (h : exec i s = .next t) :
    t.busy = false ∧ t.done = true ∧ t.pending = none := by
  rcases exec_cases h with ⟨_, -, -, rfl⟩ | ⟨_, -, -, rfl⟩ | ⟨-, -, rfl⟩ | ⟨_, -, -, rfl⟩ | ⟨_, -, -, -, rfl⟩ |
    ⟨_, -, -, -, rfl⟩ <;> simp

/-- The report registers are written by a DECODE that succeeds and by nothing else (R33, R40). -/
theorem exec_rpt_cases {i : Instr} {s t : State} (h : exec i s = .next t) :
    t.rpt = s.rpt ∨ ∃ tr, i = .decode tr ∧ t.reportValid = true ∧ t.errcode = 0 := by
  rcases exec_cases h with ⟨_, -, -, rfl⟩ | ⟨_, -, -, rfl⟩ | ⟨-, -, rfl⟩ | ⟨_, -, -, rfl⟩ | ⟨_, -, -, -, rfl⟩ |
    ⟨tr, rfl, -, -, rfl⟩
  · exact .inl (by simp)
  · exact .inl (by simp)
  · exact .inl (by simp)
  · exact .inl (by simp)
  · exact .inl (by simp)
  · exact .inr ⟨tr, rfl, by simp, by simp⟩

/-- REPORT_VALID is written by DECODE alone (R33). -/
theorem exec_reportValid_of_not_decode {i : Instr} {s t : State} (h : exec i s = .next t) (hi : ∀ tr, i ≠ .decode tr) :
    t.reportValid = s.reportValid := by
  rcases exec_cases h with ⟨_, -, -, rfl⟩ | ⟨_, -, -, rfl⟩ | ⟨-, -, rfl⟩ | ⟨tr, rfl, -, -⟩ | ⟨tr, rfl, -, -, -⟩ |
    ⟨tr, rfl, -, -, -⟩
  · simp
  · simp
  · simp
  · exact absurd rfl (hi tr)
  · exact absurd rfl (hi tr)
  · exact absurd rfl (hi tr)

/-- CRC_RESULT is written only by a CHECK or an UPDATE whose length passes (R39). -/
theorem exec_crcResult_of_not_checked {i : Instr} {s t : State} (h : exec i s = .next t)
    (hi : (∃ tr, i = .decode tr) ∨ s.checkerLengthOk = false) : t.crcResult = s.crcResult := by
  rcases exec_cases h with ⟨_, rfl, hl, rfl⟩ | ⟨_, rfl, hl, rfl⟩ | ⟨-, -, rfl⟩ | ⟨_, -, -, rfl⟩ | ⟨_, -, -, -, rfl⟩ |
    ⟨_, -, -, -, rfl⟩
  · simp [hl] at hi
  · simp [hl] at hi
  · simp
  · simp
  · simp
  · simp

/-- BUF is written only by an UPDATE whose length passes, and only its trailer (R21, R175). -/
theorem exec_buf_cases {i : Instr} {s t : State} (h : exec i s = .next t) :
    t.buf = s.buf ∨ ∃ sel c, i = .update sel ∧ s.checkerLengthOk = true ∧ t.buf = memWrite s.buf s.trailerAt 4 c := by
  rcases exec_cases h with ⟨_, -, -, rfl⟩ | ⟨sel, rfl, hl, rfl⟩ | ⟨-, -, rfl⟩ | ⟨_, -, -, rfl⟩ | ⟨_, -, -, -, rfl⟩ |
    ⟨_, -, -, -, rfl⟩
  · exact .inl (by simp)
  · exact .inr ⟨sel, _, rfl, hl, rfl⟩
  · exact .inl (by simp)
  · exact .inl (by simp)
  · exact .inl (by simp)
  · exact .inl (by simp)

/-- A byte that a multi-byte write changed lies in the written range. -/
theorem mem_range_of_read_memWrite_ne {cap : Nat} {m : Memory} (h : m.wf cap = true) {p n : Nat} (hn : p + n ≤ cap)
    {v : Word} {a : Nat} (ha : (memWrite m p n v).read a ≠ m.read a) : p ≤ a ∧ a < p + n := by
  by_contra hout
  exact ha (read_memWrite_outside h hn v (by omega))

/-- The bytes of BUF a command may change: `BUF[L-4..L)` of an UPDATE whose length passes. -/
theorem exec_read_ne {i : Instr} {s t : State} (hbuf : s.buf.wf s.cfg.bufCap = true) (h : exec i s = .next t) {a : Nat}
    (ha : t.buf.read a ≠ s.buf.read a) :
    (∃ sel, i = .update sel) ∧ 4 ≤ s.len.toNat ∧ s.len.toNat ≤ s.cfg.bufCap ∧
      s.len.toNat - 4 ≤ a ∧ a < s.len.toNat := by
  rcases exec_buf_cases h with hb | ⟨sel, c, hi, hl, hb⟩
  · exact absurd (by rw [hb]) ha
  · obtain ⟨hlo, hhi⟩ := s.checkerLengthOk_iff.mp hl
    rw [hb, State.trailerAt_eq] at ha
    have hrange := mem_range_of_read_memWrite_ne hbuf (by omega) ha
    exact ⟨⟨sel, hi⟩, hlo, hhi, by omega, by omega⟩

theorem State.checkerLengthOk_eq_false {s : State} (h : s.len.toNat < 4 ∨ s.cfg.bufCap < s.len.toNat) :
    s.checkerLengthOk = false := by
  rw [← Bool.not_eq_true, State.checkerLengthOk_iff]
  omega

/-- Settles O28, clause by clause from the frame of each field. -/
theorem commandFrame : Obligations.CommandFrame := by
  intro i s t hbuf h
  obtain ⟨hcfg, hlen, hseed, hovr, hin, hsch, hresp, hdraws⟩ := exec_frame h
  obtain ⟨hbusy, hdone, hpend⟩ := exec_completes h
  refine ⟨hcfg, hlen, hseed, hovr, hin, hsch, hresp, hdraws, hbusy, hdone, hpend, fun hi => ⟨?_, ?_⟩, fun hv => ?_,
    fun hfail => ?_, fun a ha => exec_read_ne hbuf h ha⟩
  · exact (exec_rpt_cases h).resolve_right fun ⟨tr, htr, _⟩ => hi tr htr
  · exact exec_reportValid_of_not_decode h hi
  · exact (exec_rpt_cases h).resolve_right fun ⟨_, _, htrue, _⟩ => by simp [hv] at htrue
  · exact exec_crcResult_of_not_checked h (hfail.imp_right State.checkerLengthOk_eq_false)

/-! ## Steps: what may change and by what -/

/-- A flag that a step keeps is neither set nor cleared by it. -/
theorem flag_neither_set_nor_cleared {b c : Bool} (h : c = b) {P Q : Prop} :
    (b = false → c = true → P) ∧ (b = true → c = false → Q) := by
  subst h
  exact ⟨fun h0 h1 => by simp [h0] at h1, fun h1 h0 => by simp [h1] at h0⟩

/-- Settles O12: a command keeps the configuration, and so does every update the other steps make. -/
theorem configurationNeverChanges : Obligations.ConfigurationNeverChanges := by
  intro s t hstep
  cases step_blockStep hstep with
  | command _ _ hexec hb => exact (congrArg State.cfg hb :).trans (exec_frame hexec).1
  | held hb | illegal _ _ hb | dropped _ _ _ hb | status _ hb | issued _ _ hb | len _ _ hb | seed _ _ hb
  | buffer _ _ _ hb | reset _ _ hb => exact (congrArg State.cfg hb :)

/-- Settles O32: host writes and dropped writes leave the results, so a completion or reset changed them. -/
theorem resultsChangeOnlyAtCompletion : Obligations.ResultsChangeOnlyAtCompletion := by
  intro s t hstep hne
  cases step_blockStep hstep with
  | command hbusy hcmd hexec hb =>
    obtain ⟨hbusy', hdone', -⟩ := exec_completes hexec
    exact .inl ⟨hcmd.1, hbusy, (congrArg State.busy hb :).trans hbusy', (congrArg State.done hb :).trans hdone'⟩
  | illegal hbusy hturn hb => exact .inl ⟨hturn, hbusy, (congrArg State.busy hb :), (congrArg State.done hb :)⟩
  | reset _ hreset _ => exact .inr hreset
  | held hb | dropped _ _ _ hb | status _ hb | issued _ _ hb | len _ _ hb | seed _ _ hb | buffer _ _ _ hb =>
    exact absurd (congrArg State.results hb :) hne

/-- Settles O33: of the completions only a DECODE that succeeds writes the report registers. -/
theorem reportChangesOnlyBySuccessfulDecode : Obligations.ReportChangesOnlyBySuccessfulDecode := by
  intro s t hstep hne
  cases step_blockStep hstep with
  | command _ hcmd hexec hb =>
    have hrpt := (congrArg State.rpt hb :)
    rcases exec_rpt_cases hexec with hsame | ⟨tr, rfl, hvalid, herr⟩
    · exact absurd (hrpt.trans hsame) hne
    · exact .inl ⟨tr, hcmd, (congrArg State.reportValid hb :).trans hvalid, (congrArg State.errcode hb :).trans herr⟩
  | reset _ hreset _ => exact .inr hreset
  | held hb | illegal _ _ hb | dropped _ _ _ hb | status _ hb | issued _ _ hb | len _ _ hb | seed _ _ hb
  | buffer _ _ _ hb => exact absurd (congrArg State.rpt hb :) hne

/-- Settles O31: a dropped write sets OVR, a STATUS write or reset clears it, every other step keeps it. -/
theorem overrunIsSticky : Obligations.OverrunIsSticky := by
  intro s t hstep
  cases step_blockStep hstep with
  | command _ _ hexec hb =>
    obtain ⟨-, -, -, hovr, -⟩ := exec_frame hexec
    exact flag_neither_set_nor_cleared ((congrArg State.ovr hb :).trans hovr)
  | dropped hbusy hwrite hoff hb =>
    have ht : t.ovr = true := (congrArg State.ovr hb :)
    exact ⟨fun _ _ => ⟨hbusy, _, _, _, hwrite, hoff⟩, fun _ h0 => by simp [ht] at h0⟩
  | @status v hwrite hb =>
    have ht : t.ovr = (s.ovr && !v.getLsbD 4) := (congrArg State.ovr hb :)
    refine ⟨fun h0 h1 => ?_, fun h1 h0 => .inl ⟨v, hwrite, ?_⟩⟩
    · simp [ht, h0] at h1
    · simpa [ht, h1] using h0
  | reset _ hreset hb =>
    have ht : t.ovr = false := (congrArg State.ovr hb :)
    exact ⟨fun _ h1 => by simp [ht] at h1, fun _ _ => .inr hreset⟩
  | held hb | illegal _ _ hb | issued _ _ hb | len _ _ hb | seed _ _ hb | buffer _ _ _ hb =>
    exact flag_neither_set_nor_cleared (congrArg State.ovr hb :)

/-- Settles O34.  The invariant is needed for BUF: a write reads back elsewhere as before in the canonical form. -/
theorem operandsChangeOnlyWhileIdle : Obligations.OperandsChangeOnlyWhileIdle := by
  intro s t hinv hstep
  cases step_blockStep hstep with
  | command _ hcmd hexec hb =>
    obtain ⟨-, hlen, hseed, -⟩ := exec_frame hexec
    have hbuf : t.buf = _ := (congrArg State.buf hb :)
    refine ⟨fun h => absurd ((congrArg State.len hb :).trans hlen) h,
      fun h => absurd ((congrArg State.seed hb :).trans hseed) h, fun a ha => ?_⟩
    rw [hbuf] at ha
    obtain ⟨⟨sel, rfl⟩, -, -, hlo, hhi⟩ := exec_read_ne hinv.buf hexec ha
    exact .inl ⟨sel, hcmd, hlo, hhi⟩
  | len hidle hwrite hb =>
    exact ⟨fun _ => .inl ⟨hidle, _, hwrite, (congrArg State.len hb :)⟩, fun h => absurd (congrArg State.seed hb :) h,
      fun a h => absurd (congrArg (fun u : State => u.buf.read a) hb :) h⟩
  | seed hidle hwrite hb =>
    exact ⟨fun h => absurd (congrArg State.len hb :) h, fun _ => .inl ⟨hidle, _, hwrite, (congrArg State.seed hb :)⟩,
      fun a h => absurd (congrArg (fun u : State => u.buf.read a) hb :) h⟩
  | @buffer off n v hidle hwrite ho hb =>
    have hbuf : t.buf = memWrite s.buf (off - 0x100) n v := (congrArg State.buf hb :)
    refine ⟨fun h => absurd (congrArg State.len hb :) h, fun h => absurd (congrArg State.seed hb :) h, fun a ha => ?_⟩
    rw [hbuf] at ha
    have hrange := mem_range_of_read_memWrite_ne hinv.buf (hwrite.buffer_bounds ho) ha
    exact .inr (.inl ⟨hidle, off, n, v, hwrite, by omega, by omega⟩)
  | reset _ hreset _ => exact ⟨fun _ => .inr hreset, fun _ => .inr hreset, fun _ _ => .inr (.inr hreset)⟩
  | held hb | illegal _ _ hb | dropped _ _ _ hb | status _ hb | issued _ _ hb =>
    exact ⟨fun h => absurd (congrArg State.len hb :) h, fun h => absurd (congrArg State.seed hb :) h,
      fun a h => absurd (congrArg (fun u : State => u.buf.read a) hb :) h⟩

/-! ## STATUS -/

theorem getLsbD_flagBit (b : Bool) {i : Nat} (hi : i < 32) (j : Nat) :
    (flagBit b i).getLsbD j = (decide (j = i) && b) := by
  rcases Nat.lt_trichotomy j i with h | rfl | h
  · simp [flagBit, h, h.ne]
  · simp [flagBit, hi]
  · simp [flagBit, BitVec.getLsbD_ofBool, h.ne', Nat.sub_ne_zero_of_lt h]

theorem getLsbD_errcodeField (e : BitVec 4) (j : Nat) :
    (e.setWidth 32 <<< 8).getLsbD j = (decide (8 ≤ j) && e.getLsbD (j - 8)) := by
  by_cases h8 : 8 ≤ j
  · by_cases h32 : j < 32
    · simp [h8, h32, Nat.not_lt.mpr h8]
    · have hout : e.getLsbD (j - 8) = false := BitVec.getLsbD_of_ge e _ (by omega)
      simp [h32, hout]
  · simp [h8, Nat.lt_of_not_le h8]

/-- Each bit of STATUS (R29). -/
theorem getLsbD_statusWord (s : State) (j : Nat) :
    s.statusWord.getLsbD j =
      (decide (j = 0) && s.busy || decide (j = 1) && s.done || decide (j = 2) && s.crcOk ||
        decide (j = 3) && s.reportValid || decide (j = 4) && s.ovr || decide (8 ≤ j) && s.errcode.getLsbD (j - 8)) := by
  simp (disch := decide) only [State.statusWord, BitVec.getLsbD_or, getLsbD_flagBit, getLsbD_errcodeField]

/-- Bits 7:5 of STATUS are reserved (R29, R48). -/
theorem statusWord_reservedLow (s : State) : s.statusWord.extractLsb' 5 3 = 0#3 := by
  apply BitVec.eq_of_getLsbD_eq
  intro k hk
  have h0 : 5 + k ≠ 0 ∧ 5 + k ≠ 1 ∧ 5 + k ≠ 2 ∧ 5 + k ≠ 3 ∧ 5 + k ≠ 4 ∧ ¬8 ≤ 5 + k := by omega
  simp [getLsbD_statusWord, h0]

/-- Bits 31:12 of STATUS are reserved (R29, R48). -/
theorem statusWord_reservedHigh (s : State) : s.statusWord.extractLsb' 12 20 = 0#20 := by
  apply BitVec.eq_of_getLsbD_eq
  intro k hk
  have h0 : 12 + k ≠ 0 ∧ 12 + k ≠ 1 ∧ 12 + k ≠ 2 ∧ 12 + k ≠ 3 ∧ 12 + k ≠ 4 := by omega
  have hout : s.errcode.getLsbD (12 + k - 8) = false := BitVec.getLsbD_of_ge _ _ (by omega)
  simp [getLsbD_statusWord, h0, hout]

theorem statusWord_errcode (s : State) : s.statusWord.extractLsb' 8 4 = s.errcode := by
  apply BitVec.eq_of_getLsbD_eq
  intro k hk
  have h0 : 8 + k ≠ 0 ∧ 8 + k ≠ 1 ∧ 8 + k ≠ 2 ∧ 8 + k ≠ 3 ∧ 8 + k ≠ 4 := by omega
  simp [getLsbD_statusWord, h0, hk]

/-- Settles O39: each field is read off `getLsbD_statusWord`. -/
theorem statusLayout : Obligations.StatusLayout := by
  intro s
  have hbit := getLsbD_statusWord s
  exact ⟨by simpa using hbit 0, by simpa using hbit 1, by simpa using hbit 2, by simpa using hbit 3,
    by simpa using hbit 4, statusWord_reservedLow s, statusWord_errcode s, statusWord_reservedHigh s⟩

/-- Settles O30: an accepted CMD write sets BUSY, a completion or reset clears it, every other step keeps it. -/
theorem busyChangesOnlyByCommandOrReset : Obligations.BusyChangesOnlyByCommandOrReset := by
  refine ⟨fun s => (statusLayout s).1, fun _ _ => rfl, fun s t hstep => ?_⟩
  cases step_blockStep hstep with
  | command hbusy hcmd hexec hb =>
    obtain ⟨-, hdone, hpend⟩ := exec_completes hexec
    exact ⟨fun h0 => by simp [hbusy] at h0, fun _ _ =>
      .inl ⟨hcmd.1, (congrArg State.done hb :).trans hdone, (congrArg State.pending hb :).trans hpend⟩⟩
  | illegal hbusy hturn hb =>
    exact ⟨fun h0 => by simp [hbusy] at h0, fun _ _ =>
      .inl ⟨hturn, (congrArg State.done hb :), (congrArg State.pending hb :)⟩⟩
  | @issued v hidle hwrite hb =>
    exact ⟨fun _ _ => ⟨v, hwrite, (congrArg State.pending hb :)⟩, fun h1 => by simp [hidle] at h1⟩
  | reset _ hreset hb =>
    have ht : t.busy = false := (congrArg State.busy hb :)
    exact ⟨fun _ h1 => by simp [ht] at h1, fun _ _ => .inr hreset⟩
  | held hb | dropped _ _ _ hb | status _ hb | len _ _ hb | seed _ _ hb | buffer _ _ _ hb =>
    exact flag_neither_set_nor_cleared (congrArg State.busy hb :)

/-! ## Registers -/

theorem hostRead_idle (s : State) (h : s.busy = false) {off : Nat} {r : Reg} {x : Word} (hr : regAt off = some r)
    (hx : ∀ d, s.readReg d r = x) : hostRead s off 4 = { s with responses := .value x :: s.responses } := by
  rw [hostRead_reg s hr, hx, h]
  rfl

theorem State.result_idle {s : State} (h : s.busy = false) (d v : Word) : s.result d v = v :=
  if_neg (by simp [h])

theorem State.readReg_status_idle {s : State} (h : s.busy = false) (d : Word) : s.readReg d .status = s.statusWord :=
  if_neg (by simp [h])

/-- Settles O38: an idle read takes nothing from the draw. -/
theorem idleRegisterReads : Obligations.IdleRegisterReads := by
  intro s h p hp
  have hres := s.result_idle h
  simp only [List.mem_cons, List.not_mem_nil, or_false] at hp
  rcases hp with rfl | rfl | rfl | rfl | rfl | rfl | rfl | rfl | rfl | rfl | rfl | rfl | rfl | rfl | rfl | rfl | rfl |
    rfl | rfl
  · exact hostRead_idle s h regAt_id fun _ => rfl
  · exact hostRead_idle s h regAt_cap fun _ => rfl
  · exact hostRead_idle s h regAt_cmd fun _ => rfl
  · exact hostRead_idle s h regAt_status (State.readReg_status_idle h)
  · exact hostRead_idle s h regAt_len fun _ => rfl
  · exact hostRead_idle s h regAt_seed fun _ => rfl
  · exact hostRead_idle s h regAt_crcResult fun d => hres d _
  · exact hostRead_idle s h regAt_rptSticks fun d => hres d _
  · exact hostRead_idle s h regAt_rptTrig fun d => hres d _
  · exact hostRead_idle s h regAt_rptButtons fun d => hres d _
  · exact hostRead_idle s h regAt_rptGyroX fun d => hres d _
  · exact hostRead_idle s h regAt_rptGyroY fun d => hres d _
  · exact hostRead_idle s h regAt_rptGyroZ fun d => hres d _
  · exact hostRead_idle s h regAt_rptAccelX fun d => hres d _
  · exact hostRead_idle s h regAt_rptAccelY fun d => hres d _
  · exact hostRead_idle s h regAt_rptAccelZ fun d => hres d _
  · exact hostRead_idle s h regAt_rptTimestamp fun d => hres d _
  · exact hostRead_idle s h regAt_rptTouch0 fun d => hres d _
  · exact hostRead_idle s h regAt_rptTouch1 fun d => hres d _

/-- Settles O41: no flag but BUSY decides. -/
theorem idleCmdWriteIsAccepted : Obligations.IdleCmdWriteIsAccepted := by
  intro s v h
  rw [hostWrite_reg s v regAt_cmd, State.writeReg, State.unlessBusy_of_idle h]
  rfl

/-- Settles O42: the STATUS write of R36, with its masks written as conditions. -/
theorem statusWriteClearsDoneAndOvr : Obligations.StatusWriteClearsDoneAndOvr := by
  intro s v
  have hclear (c b : Bool) : (b && !c) = if c = true then false else b := by cases c <;> simp
  rw [hostWrite_reg s v regAt_status, State.writeReg, State.writeStatus, hclear, hclear]
  rfl

/-- A field of `w` bits written by a 32-bit value reads back as that value masked (R48). -/
theorem setWidth_setWidth_eq_and (v : Word) {w : Nat} (hw : w ≤ 32) :
    (v.setWidth w).setWidth 32 = v &&& BitVec.ofNat 32 (2 ^ w - 1) := by
  apply BitVec.eq_of_toNat_eq
  have hle : 2 ^ w ≤ 2 ^ 32 := Nat.pow_le_pow_right (by decide) hw
  have hpos : 0 < 2 ^ w := Nat.two_pow_pos w
  rw [BitVec.toNat_and, BitVec.toNat_ofNat, Nat.mod_eq_of_lt (by omega), Nat.and_two_pow_sub_one_eq_mod,
    BitVec.toNat_setWidth, BitVec.toNat_setWidth, Nat.mod_eq_of_lt]
  exact lt_of_lt_of_le (Nat.mod_lt _ hpos) hle

/-- Settles O43: the stored field reads back as the written value masked. -/
theorem operandRegistersReadBack : Obligations.OperandRegistersReadBack := by
  intro s v h
  have hlen : hostWrite s 0x010 4 v = { s with len := v.setWidth 16, responses := .ok :: s.responses } := by
    rw [hostWrite_reg s v regAt_len, State.writeReg, State.unlessBusy_of_idle h]
    rfl
  have hseed : hostWrite s 0x014 4 v = { s with seed := v.setWidth 8, responses := .ok :: s.responses } := by
    rw [hostWrite_reg s v regAt_seed, State.writeReg, State.unlessBusy_of_idle h]
    rfl
  refine ⟨hlen, ?_, hseed, ?_⟩
  · rw [hlen]
    exact hostRead_idle { s with len := v.setWidth 16, responses := .ok :: s.responses } h regAt_len
      fun _ => setWidth_setWidth_eq_and v (w := 16) (by decide)
  · rw [hseed]
    exact hostRead_idle { s with seed := v.setWidth 8, responses := .ok :: s.responses } h regAt_seed
      fun _ => setWidth_setWidth_eq_and v (w := 8) (by decide)

/-- The registers that a write leaves alone (R49). -/
def Reg.readOnly : Reg → Bool
  | .cmd | .status | .len | .seed => false
  | _ => true

theorem hostWrite_readOnly (s : State) (v : Word) {off : Nat} {r : Reg} (hr : regAt off = some r)
    (hro : r.readOnly = true) : hostWrite s off 4 v = { s with responses := .ok :: s.responses } := by
  rw [hostWrite_reg s v hr]
  cases r with
  | cmd | status | len | seed => exact absurd hro (by decide)
  | _ => rfl

/-- Settles O44: every offset of the list is that of a read-only register. -/
theorem readOnlyRegistersIgnoreWrites : Obligations.ReadOnlyRegistersIgnoreWrites := by
  intro s v off hoff
  obtain ⟨r, hr, hro⟩ : ∃ r, regAt off = some r ∧ r.readOnly = true := by
    revert off
    decide
  exact hostWrite_readOnly s v hr hro

/-! ### Reserved bits -/

/-- Above its own width a zero-extended field reads 0. -/
theorem extractLsb'_setWidth_above {w : Nat} (x : BitVec w) {p n : Nat} (h : w ≤ p) :
    (x.setWidth 32).extractLsb' p n = 0#n := by
  apply BitVec.eq_of_getLsbD_eq
  intro k hk
  have hout : x.getLsbD (p + k) = false := BitVec.getLsbD_of_ge x _ (by omega)
  simp [hout]

/-- Reserved bits of STATUS read 0 while busy too: no draw reaches them (R48, R73). -/
theorem extractLsb'_readReg_status {s : State} {p n : Nat} (hs : s.statusWord.extractLsb' p n = 0#n)
    (hd : statusDrawnBits.extractLsb' p n = 0#n) (d : Word) : (s.readReg d .status).extractLsb' p n = 0#n := by
  rw [State.readReg]
  split
  · rw [State.statusWhileBusy, BitVec.extractLsb'_or, BitVec.extractLsb'_and, BitVec.extractLsb'_and, hs, hd]
    simp
  · exact hs

theorem Config.bufCap_le_of_wf {c : Config} (h : c.wf = true) : c.bufCap ≤ 256 := by
  simp only [Config.wf, Bool.and_eq_true, decide_eq_true_eq] at h
  exact h.1.1.2

theorem readReg_cap_eq_setWidth {s : State} (h : s.cfg.wf = true) (d : Word) :
    s.readReg d .cap = (BitVec.ofNat 16 s.cfg.bufCap).setWidth 32 := by
  have hle := Config.bufCap_le_of_wf h
  apply BitVec.eq_of_toNat_eq
  rw [State.readReg, BitVec.toNat_setWidth, BitVec.toNat_ofNat, BitVec.toNat_ofNat]
  omega

theorem writeStatus_eq_of_bits {v w : Word} (s : State) (h1 : v.getLsbD 1 = w.getLsbD 1)
    (h4 : v.getLsbD 4 = w.getLsbD 4) : s.writeStatus v = s.writeStatus w := by
  rw [State.writeStatus, State.writeStatus, h1, h4]

/-- Settles O40: reads have zeros above each field, and writes see only the bits of the field. -/
theorem reservedBitsReadZero : Obligations.ReservedBitsReadZero := by
  refine ⟨fun s d hc => ⟨?_, ?_, ?_, ?_, ?_⟩, fun s v => ⟨?_, ?_, ?_, ?_⟩⟩
  · exact extractLsb'_readReg_status (statusWord_reservedLow s) (by decide) d
  · exact extractLsb'_readReg_status (statusWord_reservedHigh s) (by decide) d
  · rw [readReg_cap_eq_setWidth hc]
    exact extractLsb'_setWidth_above _ (by decide)
  · exact extractLsb'_setWidth_above s.len (by decide)
  · exact extractLsb'_setWidth_above s.seed (by decide)
  · rw [hostWrite_reg s _ regAt_status, hostWrite_reg s _ regAt_status]
    exact congrArg (State.respond · .ok) (writeStatus_eq_of_bits s (by simp) (by simp))
  · rw [hostWrite_readOnly s _ regAt_cap rfl, hostWrite_readOnly s _ regAt_cap rfl]
  · have hfield : (v &&& 0x0000FFFF#32).setWidth 16 = v.setWidth 16 := by
      rw [BitVec.setWidth_and]
      exact BitVec.and_allOnes
    rw [hostWrite_reg s _ regAt_len, hostWrite_reg s _ regAt_len, State.writeReg, State.writeReg, hfield]
  · have hfield : (v &&& 0x000000FF#32).setWidth 8 = v.setWidth 8 := by
      rw [BitVec.setWidth_and]
      exact BitVec.and_allOnes
    rw [hostWrite_reg s _ regAt_seed, hostWrite_reg s _ regAt_seed, State.writeReg, State.writeReg, hfield]

/-! ## The engine's turn -/

theorem engineStep_of_classify {s : State} {w : Word} {i : Instr} (hw : s.pending = some w) (hi : classify w = some i) :
    engineStep s = exec i s := by
  simp [engineStep, hw, hi]

theorem engineStep_of_illegal {s : State} {w : Word} (hw : s.pending = some w) (hi : classify w = none) :
    engineStep s = .next s.completeIllegal := by
  simp [engineStep, hw, hi]

theorem step_of_engine_turn {s : State} (h : s.turn = some .engine) : step s = engineStep s.takeTurn := by
  simp [step, h]

/-- Settles O4: in both cases the turn is the engine's, and `takeTurn` uses up an entry only when contended. -/
theorem stepRunsThePendingCommand : Obligations.StepRunsThePendingCommand := by
  intro s w i hbusy hw hi
  refine ⟨fun hin => ?_, fun hin hhead => ?_⟩
  · have hfree : s.contended = false := by simp [State.contended, hin]
    have hturn : s.turn = some .engine := by simp [State.turn, hfree, hbusy]
    have hself : s.takeTurn = s := by simp [State.takeTurn, hfree]
    rw [step_of_engine_turn hturn, hself]
    exact engineStep_of_classify hw hi
  · have hboth : s.contended = true := by simp [State.contended, hbusy, hin]
    have hfirst : s.schedule.headD .engine = .engine := by
      cases hsch : s.schedule with
      | nil => rfl
      | cons a rest =>
        cases a with
        | host => exact absurd (by rw [hsch]; rfl) hhead
        | engine => rfl
    have hturn : s.turn = some .engine := by rw [State.turn, if_pos hboth, hfirst]
    have htail : s.takeTurn = { s with schedule := s.schedule.tail } := if_pos hboth
    rw [step_of_engine_turn hturn, htail]
    exact engineStep_of_classify hw hi

/-! ## The flag table -/

/-- R72: what a write to an operand register, to CMD or to the buffer window does while busy. -/
theorem hostWrite_dropped {s : State} {off n : Nat} (v : Word) (hbusy : s.busy = true)
    (he : busError s.cfg off n = false) (ho : off = 0x008 ∨ off = 0x010 ∨ off = 0x014 ∨ 0x100 ≤ off) :
    hostWrite s off n v = s.dropWrite.respond .ok := by
  have hdrop := State.unlessBusy_of_busy hbusy
  rw [hostWrite, if_neg (by simp [he])]
  rcases ho with rfl | rfl | rfl | ho
  · rw [State.writeValue_reg s regAt_cmd, State.writeReg, hdrop]
  · rw [State.writeValue_reg s regAt_len, State.writeReg, hdrop]
  · rw [State.writeValue_reg s regAt_seed, State.writeReg, hdrop]
  · rw [State.writeValue_buffer s ho, hdrop]

/-- A register equals the little-endian word in BUF as soon as their numbers are equal (R12). -/
theorem toNat_eq_leNat_iff (c : Word) (m : Memory) (p : Nat) : c.toNat = leNat m p 4 ↔ c = le32 m p := by
  rw [← toNat_memRead m p (by decide), BitVec.toNat_inj, le32]

theorem State.checkerLengthOk_of_bounds {s : State} (hlo : 4 ≤ s.len.toNat) (hhi : s.len.toNat ≤ s.cfg.bufCap) :
    s.checkerLengthOk = true :=
  s.checkerLengthOk_iff.mpr ⟨hlo, hhi⟩

theorem State.flags_compareTrailer (s : State) (c : Word) :
    (s.compareTrailer c).flags = (false, true, decide (c = le32 s.buf s.trailerAt), s.reportValid, s.ovr,
      if c = le32 s.buf s.trailerAt then 0 else 3) := by
  simp [State.flags]

/-- Settles O29, row by row. -/
theorem flagTable : Obligations.FlagTable := by
  refine ⟨fun s v hidle => ?accepted, fun s off n v hbusy he ho => ?dropped, fun sel s hlo hhi => ?checkVerdict,
    fun sel s hbad => ?lengthBad, fun sel s hlo hhi => ?update, fun tr s hc => ?decode, fun s w hw hi => ?illegal,
    fun s v => ?statusWrite, fun s c rest hin => ?reset⟩
  case accepted =>
    rw [idleCmdWriteIsAccepted s v hidle]
    rfl
  case dropped =>
    rw [hostWrite_dropped v hbusy he ho]
    simp [State.flags, State.respond, hbusy]
  case checkVerdict =>
    refine ⟨_, execCheck_of_lengthOk sel (State.checkerLengthOk_of_bounds hlo hhi), ?_⟩
    rw [State.flags_compareTrailer, State.compareTrailer_crcResult, ne_eq, toNat_eq_leNat_iff, ← State.trailerAt_eq]
    exact ⟨fun heq => by simp [heq], fun hne => by simp [hne]⟩
  case lengthBad =>
    have hl := State.checkerLengthOk_eq_false hbad
    exact ⟨⟨_, execCheck_of_lengthBad sel hl, rfl⟩, ⟨_, execUpdate_of_lengthBad sel hl, rfl⟩⟩
  case update =>
    exact ⟨_, execUpdate_of_lengthOk sel (State.checkerLengthOk_of_bounds hlo hhi), rfl⟩
  case decode =>
    have hreach := decodeReach_le_of_wf hc
    by_cases hl : s.len.toNat = transportSize tr
    · by_cases hr : s.buf.read 0 = transportReportId tr
      · exact ⟨_, execDecode_of_valid hl hreach hr, fun _ _ => rfl, fun h => absurd hl h, fun _ h => absurd hr h⟩
      · exact ⟨_, execDecode_of_reportIdBad hl hreach hr, fun _ h => absurd h hr, fun h => absurd hl h, fun _ _ => rfl⟩
    · exact ⟨_, execDecode_of_lengthBad hl, fun h => absurd h hl, fun _ => rfl, fun h => absurd h hl⟩
  case illegal =>
    exact ⟨_, engineStep_of_illegal hw hi, rfl⟩
  case statusWrite =>
    rw [statusWriteClearsDoneAndOvr s v]
    rfl
  case reset =>
    rw [hostStep_reset hin]
    rfl

end Sys2Proof.Machine
end

section
/-! PROOFS. The statements of spec/20_memory.md: the accesses the port performs (R61 to R65), the buffer window (R65,
R66), reads and writes idle and busy (R71 to R73, R76), the order of the two agents (R75), and that no run from a state
the spec describes stops (R74). -/
namespace Sys2Proof.Machine

/-! ## No step stops -/

/-- The engine has its turn only while a command is in flight (R20). -/
theorem State.busy_of_engine_turn {s : State} (h : s.turn = some .engine) : s.busy = true := by
  cases hb : s.busy with
  | true => rfl
  | false => cases hi : s.inputs <;> simp [State.turn, State.contended, hb, hi] at h

/-- In a state the spec describes the engine finds a pending word (R22), and its command stays within BUF (R74). -/
theorem State.Inv.engineStep_next {s : State} (h : s.Inv) (hbusy : s.busy = true) : ∃ t, engineStep s = .next t := by
  obtain ⟨w, hw⟩ := Option.isSome_iff_exists.mp (h.pending.trans hbusy)
  cases hi : classify w with
  | some i =>
    rw [engineStep_of_classify hw hi]
    exact exec_next_of_reach i (decodeReach_le_of_wf h.cfg)
  | none => exact ⟨_, engineStep_of_illegal hw hi⟩

theorem State.Inv.step_next {s : State} (h : s.Inv) : ∃ t, step s = .next t := by
  cases hturn : s.turn with
  | none => exact ⟨s, by simp [step, hturn]⟩
  | some agent =>
    cases agent with
    | engine =>
      rw [step_of_engine_turn hturn]
      have hinv : s.takeTurn.Inv := h.of_block s.block_takeTurn
      exact hinv.engineStep_next (by rw [State.takeTurn_busy]; exact State.busy_of_engine_turn hturn)
    | host => exact ⟨hostStep s.takeTurn, by simp [step, hturn]⟩

/-- Settles O11: a state that meets the invariant has a next state, which meets it too. -/
theorem noRunOfAnAllowedInstanceStops : Obligations.NoRunOfAnAllowedInstanceStops := by
  intro s hinv k
  induction k generalizing s with
  | zero => trivial
  | succ k ih =>
    obtain ⟨t, ht⟩ := hinv.step_next
    exact ⟨t, ht, ih t (everyStepKeepsTheInvariant s t hinv ht)⟩

/-! ## The accesses the port performs -/

/-- The offsets at which R25 maps a register. -/
theorem exists_regAt_iff_mem (off : Nat) : (∃ r, regAt off = some r) ↔
    off ∈ [0x000, 0x004, 0x008, 0x00C, 0x010, 0x014, 0x018, 0x040, 0x044, 0x048, 0x04C, 0x050, 0x054, 0x058, 0x05C,
      0x060, 0x064, 0x068, 0x06C] := by
  constructor
  · rintro ⟨r, hr⟩
    rw [(regAt_eq_some_iff off r).mp hr]
    cases r <;> decide
  · rw [← Option.isSome_iff_exists]
    revert off
    decide

/-- R64 in the register window. -/
theorem busError_register_iff (cfg : Config) {off n : Nat} (ho : off < 0x100) :
    busError cfg off n = false ↔ n = 4 ∧ ∃ r, regAt off = some r := by
  refine ⟨busError_register ho, ?_⟩
  rintro ⟨rfl, r, hr⟩
  exact busError_reg cfg hr

/-- R64 in the buffer window: BUF ends within the aperture (R6), so only its capacity bounds an access. -/
theorem busError_buffer_iff {cfg : Config} (hc : cfg.wf = true) {off n : Nat} (ho : 0x100 ≤ off) :
    busError cfg off n = false ↔ (n = 1 ∨ n = 2 ∨ n = 4) ∧ off % n = 0 ∧ off + n ≤ 0x100 + cfg.bufCap := by
  have hcap := Config.bufCap_le_of_wf hc
  rw [busError, decide_eq_false_iff_not]
  simp only [bufferBase, apertureSize]
  omega

/-- Settles O35, window by window. -/
theorem performedAccesses : Obligations.PerformedAccesses := by
  intro cfg off n hc
  rw [← exists_regAt_iff_mem]
  by_cases ho : off < 0x100
  · rw [busError_register_iff cfg ho]
    exact ⟨.inl, fun h => h.resolve_right fun ⟨_, _, hlo, _⟩ => by omega⟩
  · have hno : ¬∃ r, regAt off = some r := fun ⟨r, hr⟩ =>
      ho ((regAt_eq_some_iff off r).mp hr ▸ r.offset_bounds.1)
    have hlo : 0x100 ≤ off := by omega
    rw [busError_buffer_iff hc hlo]
    exact ⟨fun ⟨hn, halign, hend⟩ => .inr ⟨hn, halign, hlo, hend⟩,
      fun h => (h.resolve_left fun ⟨_, hr⟩ => hno hr).imp_right fun ⟨halign, _, hend⟩ => ⟨halign, hend⟩⟩

/-! ## The buffer window while idle -/

/-- `MemWrite` makes the `n` bytes the little-endian form of the low 8n bits of the value (R12, R14). -/
theorem leNat_memWrite {cap : Nat} {m : Memory} (h : m.wf cap = true) {a n : Nat} (ha : a + n ≤ cap) (v : Word) :
    leNat (memWrite m a n v) a n = v.toNat % 2 ^ (8 * n) := by
  induction n generalizing m a v with
  | zero => simp [leNat, Nat.mod_one]
  | succ n ih =>
    have hm := Memory.wf_write h (by omega : a < cap) (v.setWidth 8)
    have hfirst : (memWrite m a (n + 1) v).read a = v.setWidth 8 := by
      rw [memWrite, read_memWrite_outside hm (by omega) _ (.inl (by omega)), Memory.read_write h, if_pos rfl]
    have hrest : leNat (memWrite m a (n + 1) v) (a + 1) n = v.toNat / 256 % 2 ^ (8 * n) := by
      rw [memWrite, ih hm (by omega), BitVec.toNat_ushiftRight, Nat.shiftRight_eq_div_pow]
    calc leNat (memWrite m a (n + 1) v) a (n + 1)
        = v.toNat % 256 + 256 * (v.toNat / 256 % 2 ^ (8 * n)) := by
          rw [leNat, hfirst, hrest, BitVec.toNat_setWidth]
      _ = v.toNat % (256 * 2 ^ (8 * n)) := Nat.mod_mul.symm
      _ = v.toNat % 2 ^ (8 * (n + 1)) := by rw [Nat.mul_succ, Nat.pow_add, Nat.mul_comm]

/-- Settles O45: while idle the port's read is `MemRead` and its write is `MemWrite`. -/
theorem bufferWindowIsLittleEndian : Obligations.BufferWindowIsLittleEndian := by
  intro s off n v hbuf hidle ho he
  obtain ⟨hn, hend⟩ := busError_buffer ho he
  refine ⟨⟨memRead s.buf (off - 0x100) n, ?_, toNat_memRead _ _ (by omega)⟩, memWrite s.buf (off - 0x100) n v, ?_,
    leNat_memWrite hbuf hend v, fun a ha => read_memWrite_outside hbuf hend v ha⟩
  · rw [hostRead_buffer s ho he, readBuffer_eq_memRead hidle, hidle]
    rfl
  · rw [hostWrite_buffer s v ho he, State.unlessBusy_of_idle hidle]
    rfl

/-! ## Repeated writes -/

/-- Writing the same bytes again changes nothing (R71). -/
theorem memWrite_memWrite {cap : Nat} {m : Memory} (h : m.wf cap = true) {a n : Nat} (ha : a + n ≤ cap) (v : Word) :
    memWrite (memWrite m a n v) a n v = memWrite m a n v := by
  have h1 := wf_memWrite h ha v
  refine Memory.wf_ext (wf_memWrite h1 ha v) h1 fun b => ?_
  by_cases hb : a ≤ b ∧ b < a + n
  · obtain ⟨k, rfl⟩ := Nat.exists_eq_add_of_le hb.1
    rw [read_memWrite_inside h1 ha v (by omega), read_memWrite_inside h ha v (by omega)]
  · exact read_memWrite_outside h1 ha v (by omega)

/-- A write that is dropped while busy is idempotent if what it does while idle is. -/
theorem State.unlessBusy_idem {s : State} {f : State → State} (hbusy : (f s).busy = s.busy) (hf : f (f s) = f s) :
    (s.unlessBusy (f s)).unlessBusy (f (s.unlessBusy (f s))) = s.unlessBusy (f s) := by
  cases hb : s.busy with
  | true =>
    rw [State.unlessBusy_of_busy hb, State.unlessBusy_of_busy (s := s.dropWrite) hb]
    rfl
  | false =>
    rw [State.unlessBusy_of_idle hb, State.unlessBusy_of_idle (hbusy.trans hb), hf]

theorem State.writeStatus_idem (s : State) (v : Word) : (s.writeStatus v).writeStatus v = s.writeStatus v := by
  simp [State.writeStatus]

/-- Of the registers only CMD tells a second write from the first (R71). -/
theorem State.writeReg_idem (s : State) (v : Word) {r : Reg} (hr : r ≠ .cmd) :
    (s.writeReg v r).writeReg v r = s.writeReg v r := by
  cases r with
  | cmd => exact absurd rfl hr
  | status => exact s.writeStatus_idem v
  | len => exact State.unlessBusy_idem (f := fun u => { u with len := v.setWidth 16 }) rfl rfl
  | seed => exact State.unlessBusy_idem (f := fun u => { u with seed := v.setWidth 8 }) rfl rfl
  | _ => rfl

theorem State.writeValue_idem {s : State} {off n : Nat} (v : Word) (hbuf : s.buf.wf s.cfg.bufCap = true)
    (hoff : off ≠ 0x008) (he : busError s.cfg off n = false) :
    (s.writeValue off n v).writeValue off n v = s.writeValue off n v := by
  by_cases ho : 0x100 ≤ off
  · rw [State.writeValue_buffer _ ho, State.writeValue_buffer _ ho]
    exact State.unlessBusy_idem (f := fun u => { u with buf := memWrite u.buf (off - 0x100) n v }) rfl
      (congrArg (fun m => { s with buf := m }) (memWrite_memWrite hbuf (busError_buffer ho he).2 v))
  · obtain ⟨rfl, r, hr⟩ := busError_register (Nat.lt_of_not_le ho) he
    rw [State.writeValue_reg _ hr, State.writeValue_reg _ hr]
    refine s.writeReg_idem v ?_
    rintro rfl
    exact hoff ((regAt_eq_some_iff off .cmd).mp hr)

theorem State.writeValue_cfg (s : State) (off n : Nat) (v : Word) : (s.writeValue off n v).cfg = s.cfg := by
  rcases writeValue_cases s off n v with e | ⟨-, e⟩ | e | ⟨-, -, -, e⟩ | ⟨-, e⟩ | ⟨-, e⟩ | ⟨-, -, e⟩ <;> rw [e] <;> rfl

/-- Settles O46: the second write meets the same refusal, or it does again what an idempotent write did. -/
theorem readsAndRepeatedWritesHaveNoEffect : Obligations.ReadsAndRepeatedWritesHaveNoEffect := by
  refine ⟨block_hostRead, fun s off n v hbuf hoff => ?_⟩
  rcases hostWrite_cases s off n v with ⟨he, hw⟩ | ⟨he, hw⟩
  · have hagain : hostWrite (s.respond .busError) off n v = (s.respond .busError).respond .busError := if_pos he
    rw [hw, hagain, State.block_respond]
  · have hagain : hostWrite ((s.writeValue off n v).respond .ok) off n v =
        (((s.writeValue off n v).respond .ok).writeValue off n v).respond .ok :=
      if_neg (by simp [State.writeValue_cfg, he])
    rw [hw, hagain, State.block_respond, ← block_writeValue_block, State.block_respond, block_writeValue_block,
      State.writeValue_idem v hbuf hoff he]

/-! ## Writes while busy -/

/-- Settles O47: the second clause's registers are STATUS and the read-only ones, whose writes do not look at BUSY. -/
theorem writesWhileBusyAreDropped : Obligations.WritesWhileBusyAreDropped := by
  refine ⟨fun s off n v hbusy he ho => hostWrite_dropped v hbusy he ho, fun s v b off hoff => ?_⟩
  obtain ⟨r, hr, rfl | hro⟩ : ∃ r, regAt off = some r ∧ (r = .status ∨ r.readOnly = true) := by
    revert off
    decide
  · rw [hostWrite_reg _ v hr, hostWrite_reg s v hr]
    rfl
  · rw [hostWrite_readOnly _ v hr hro, hostWrite_readOnly s v hr hro]

/-! ## Reads while busy -/

theorem hostRead_busy {s : State} (h : s.busy = true) {off : Nat} {r : Reg} (hr : regAt off = some r) :
    hostRead s off 4 = { s with
      draws := s.draws + 1, responses := .value (s.readReg (Config.draw s.draws) r) :: s.responses } := by
  rw [hostRead_reg s hr, h]
  rfl

/-- The registers that hold a result of a command and nothing else: CRC_RESULT and the report registers (R73). -/
def Reg.resultOnly : Reg → Bool
  | .id | .cap | .cmd | .status | .len | .seed => false
  | _ => true

theorem readReg_resultOnly_of_busy {s : State} (h : s.busy = true) (d : Word) {r : Reg} (hr : r.resultOnly = true) :
    s.readReg d r = d := by
  have hdraw (v : Word) : s.result d v = d := if_pos h
  cases r with
  | id | cap | cmd | status | len | seed => exact absurd hr (by decide)
  | _ => exact hdraw _

theorem getLsbD_statusDrawnBits {k : Nat} (hk : k < 32) :
    statusDrawnBits.getLsbD k = decide (k = 2 ∨ k = 3 ∨ (8 ≤ k ∧ k < 12)) := by
  revert k
  decide

/-- STATUS read while busy: CRC_OK, REPORT_VALID and ERRCODE from the draw, every other bit as it is (R73). -/
theorem getLsbD_statusWhileBusy (s : State) (d : Word) {k : Nat} (hk : k < 32) :
    (s.statusWhileBusy d).getLsbD k =
      if k = 2 ∨ k = 3 ∨ (8 ≤ k ∧ k < 12) then d.getLsbD k else s.statusWord.getLsbD k := by
  rw [State.statusWhileBusy, BitVec.getLsbD_or, BitVec.getLsbD_and, BitVec.getLsbD_and, BitVec.getLsbD_not,
    getLsbD_statusDrawnBits hk]
  split <;> simp [*]

/-- A buffer read of `n` bytes answers a value of at most 8n bits (R66). -/
theorem toNat_readBuffer_lt (s : State) (d : Word) (a n : Nat) : (s.readBuffer d a n).toNat < 2 ^ (8 * n) := by
  induction n generalizing d a with
  | zero => simp [State.readBuffer]
  | succ n ih =>
    have hrest := ih (d >>> 8) (a + 1)
    have hpow : 2 ^ (8 * (n + 1)) = 2 ^ (8 * n) * 256 := Nat.pow_add 2 (8 * n) 8
    rw [State.readBuffer, BitVec.toNat_or]
    refine Nat.or_lt_two_pow ?_ ?_
    · have hbyte := (s.hostByte (d.setWidth 8) a).isLt
      have hpos := Nat.two_pow_pos (8 * n)
      rw [BitVec.toNat_setWidth]
      exact lt_of_le_of_lt (Nat.mod_le _ _) (by omega)
    · rw [BitVec.toNat_shiftLeft, Nat.shiftLeft_eq]
      exact lt_of_le_of_lt (Nat.mod_le _ _) (by omega)

/-- While busy a byte of BUF is drawn exactly when an UPDATE whose length passes is pending and the byte is in its
trailer (R73). -/
theorem State.trailerUnstable_iff {s : State} (h : s.busy = true) (a : Nat) : s.trailerUnstable a = true ↔
    (∃ w sel, s.pending = some w ∧ classify w = some (.update sel)) ∧ 4 ≤ s.len.toNat ∧
      s.len.toNat ≤ s.cfg.bufCap ∧ s.len.toNat - 4 ≤ a ∧ a < s.len.toNat := by
  simp only [State.trailerUnstable, h, Bool.true_and, Bool.and_eq_true, State.checkerLengthOk_iff, decide_eq_true_eq,
    State.trailerAt_eq, State.length_eq]
  cases hp : s.pending with
  | none => simp
  | some w =>
    cases hi : classify w with
    | none => simp [hi]
    | some i =>
      cases i with
      | check | decode => simp [hi]
      | update => simp [hi, and_assoc]

/-- Settles O48, by kind of location. -/
theorem readsWhileBusy : Obligations.ReadsWhileBusy := by
  intro s hbusy answer
  refine ⟨fun off hoff => ?results, fun p hp => ?current, ?status, fun off n ho he => ?buffer⟩
  case results =>
    obtain ⟨r, hr, hres⟩ : ∃ r, regAt off = some r ∧ r.resultOnly = true := by
      revert off
      decide
    rw [hostRead_busy hbusy hr, readReg_resultOnly_of_busy hbusy _ hres]
  case current =>
    simp only [List.mem_cons, List.not_mem_nil, or_false] at hp
    rcases hp with rfl | rfl | rfl | rfl | rfl
    · exact hostRead_busy hbusy regAt_id
    · exact hostRead_busy hbusy regAt_cap
    · exact hostRead_busy hbusy regAt_cmd
    · exact hostRead_busy hbusy regAt_len
    · exact hostRead_busy hbusy regAt_seed
  case status =>
    have hread : s.readReg (Config.draw s.draws) .status = s.statusWhileBusy (Config.draw s.draws) := if_pos hbusy
    exact ⟨_, hread ▸ hostRead_busy hbusy regAt_status, fun k hk => getLsbD_statusWhileBusy s _ hk⟩
  case buffer =>
    obtain ⟨hn, -⟩ := busError_buffer ho he
    refine ⟨s.readBuffer (Config.draw s.draws) (off - 0x100) n, ?_, toNat_readBuffer_lt _ _ _ _, fun k hk => ?_⟩
    · rw [hostRead_buffer s ho he, if_pos hbusy]
      rfl
    · intro drawn
      rw [extractLsb'_readBuffer s _ _ (by omega) hk]
      have hdrawn : s.trailerUnstable (off - 0x100 + k) = true ↔ drawn := State.trailerUnstable_iff hbusy _
      exact ⟨fun hd => if_pos (hdrawn.mpr hd), fun hd => if_neg (mt hdrawn.mp hd)⟩

/-! ## The two orders -/

/-- With both agents enabled the first entry of the schedule has the turn. -/
theorem State.turn_of_contended {s : State} (h : s.contended = true) : s.turn = some (s.schedule.headD .engine) :=
  if_pos h

/-- The choice uses up its entry. -/
theorem State.takeTurn_of_contended {s : State} (h : s.contended = true) :
    s.takeTurn = { s with schedule := s.schedule.tail } :=
  if_pos h

/-- Settles O5: the state is contended, so the first entry decides and is used up. -/
theorem bothOrdersAreAdmitted : Obligations.BothOrdersAreAdmitted := by
  intro s order hbusy hin
  have hboth (agent : Agent) : State.contended { s with schedule := agent :: order } = true := by
    simp [State.contended, hbusy, hin]
  constructor
  · rw [step_of_engine_turn (State.turn_of_contended (hboth .engine)), State.takeTurn_of_contended (hboth .engine)]
    rfl
  · simp [step, State.turn_of_contended (hboth .host), State.takeTurn_of_contended (hboth .host)]

/-! ## After BUSY has read 0 -/

/-- Bit 0 of a STATUS read is the busy element itself, whatever is drawn (R30, R73). -/
theorem getLsbD_zero_readReg_status (s : State) (d : Word) : (s.readReg d .status).getLsbD 0 = s.busy := by
  have hword : s.statusWord.getLsbD 0 = s.busy := (statusLayout s).1
  rw [State.readReg]
  split
  · rw [getLsbD_statusWhileBusy s d (by decide), if_neg (by decide), hword]
  · exact hword

/-- While idle a register reads the same whatever is drawn (R73). -/
theorem readReg_eq_of_idle {s : State} (h : s.busy = false) (d d' : Word) (r : Reg) :
    s.readReg d r = s.readReg d' r := by
  have hres (v : Word) : s.result d v = s.result d' v := (s.result_idle h d v).trans (s.result_idle h d' v).symm
  cases r with
  | id | cap | cmd | len | seed => rfl
  | status => exact (State.readReg_status_idle h d).trans (State.readReg_status_idle h d').symm
  | _ => exact hres _

theorem readReg_block (s : State) (d : Word) (r : Reg) : s.block.readReg d r = s.readReg d r := by
  cases r <;> rfl

theorem readBuffer_block (s : State) (d : Word) (a n : Nat) : s.block.readBuffer d a n = s.readBuffer d a n := by
  induction n generalizing d a with
  | zero => rfl
  | succ n ih => rw [State.readBuffer, State.readBuffer, ih]; rfl

/-- A read sees only the block. -/
theorem readValue_block (s : State) (d : Word) (off n : Nat) : s.block.readValue d off n = s.readValue d off n := by
  simp only [State.readValue, readReg_block, readBuffer_block]

/-- While idle every location reads the same whatever is drawn (R73). -/
theorem readValue_eq_of_idle {s : State} (h : s.busy = false) (d d' : Word) (off n : Nat) :
    s.readValue d off n = s.readValue d' off n := by
  unfold State.readValue
  split
  · cases regAt off with
    | none => rfl
    | some r => exact readReg_eq_of_idle h d d' r
  · rw [readBuffer_eq_memRead h, readBuffer_eq_memRead h]

/-- Settles O49: bit 0 clear means idle, and an idle read takes nothing from the draw. -/
theorem noDrawAfterBusyReadsZero : Obligations.NoDrawAfterBusyReadsZero := by
  intro s x hx hbit off n d d'
  have hread := hostRead_reg s regAt_status
  have hidle : s.busy = false := by
    rw [hread, State.respond_responses, List.head?_cons, Option.some.injEq, Response.value.injEq] at hx
    rw [← getLsbD_zero_readReg_status s (Config.draw s.draws), hx, hbit]
  refine ⟨?_, block_hostRead s 0x00C 4⟩
  rw [← readValue_block, block_hostRead, readValue_block]
  exact readValue_eq_of_idle hidle d d' off n

end Sys2Proof.Machine
end

section
/-! PROOFS. The statements of spec/30_encoding.md: command words and their fields (R91 to R96), the mnemonics (R99), WAIT
(R100), illegal words (R201), and the bytes a report leaves unused (R112, R114). -/
namespace Sys2Proof

/-! ## A word and its fields -/

/-- The five fields of R91 make up the whole word. -/
theorem word_ext_fields {w w' : Word} (hop : opField w = opField w') (hsel : seedSelField w = seedSelField w')
    (hlow : reservedLowField w = reservedLowField w') (ht : transportField w = transportField w')
    (hhigh : reservedHighField w = reservedHighField w') : w = w' := by
  have hbit {start len i : Nat} (h : w.extractLsb' start len = w'.extractLsb' start len) (hlo : start ≤ i)
      (hhi : i < start + len) : w.getLsbD i = w'.getLsbD i := by
    have hi := congrArg (BitVec.getLsbD · (i - start)) h
    have hlt : i - start < len := by omega
    simpa only [BitVec.getLsbD_extractLsb', hlt, decide_true, Bool.true_and, Nat.add_sub_cancel' hlo] using hi
  refine BitVec.eq_of_getLsbD_eq fun i hi => ?_
  rcases (by omega : i < 4 ∨ (4 ≤ i ∧ i < 6) ∨ (6 ≤ i ∧ i < 8) ∨ (8 ≤ i ∧ i < 9) ∨ 9 ≤ i) with h | h | h | h | h
  · exact hbit hop (Nat.zero_le i) (by omega)
  · exact hbit hsel h.1 h.2
  · exact hbit hlow h.1 h.2
  · exact hbit ht h.1 h.2
  · exact hbit hhigh h hi

theorem fields_commandWord (op : BitVec 4) (sel : BitVec 2) (t : BitVec 1) :
    opField (commandWord op sel t) = op ∧ seedSelField (commandWord op sel t) = sel ∧
      transportField (commandWord op sel t) = t ∧ reservedLowField (commandWord op sel t) = 0 ∧
      reservedHighField (commandWord op sel t) = 0 := by
  revert op sel t
  decide

/-- R91: a command word is its three fields with every reserved bit 0. -/
theorem eq_commandWord_iff {w : Word} {op : BitVec 4} {sel : BitVec 2} {t : BitVec 1} :
    w = commandWord op sel t ↔ opField w = op ∧ seedSelField w = sel ∧ transportField w = t ∧
      reservedLowField w = 0 ∧ reservedHighField w = 0 := by
  obtain ⟨hop', hsel', ht', hlow', hhigh'⟩ := fields_commandWord op sel t
  constructor
  · rintro rfl
    exact ⟨hop', hsel', ht', hlow', hhigh'⟩
  · rintro ⟨hop, hsel, ht, hlow, hhigh⟩
    exact word_ext_fields (hop.trans hop'.symm) (hsel.trans hsel'.symm) (hlow.trans hlow'.symm) (ht.trans ht'.symm)
      (hhigh.trans hhigh'.symm)

/-! ## The masks of R95 -/

theorem extractLsb'_and_of_allOnes (w : Word) {m : Word} {start len : Nat}
    (h : m.extractLsb' start len = BitVec.allOnes len) : (w &&& m).extractLsb' start len = w.extractLsb' start len := by
  rw [BitVec.extractLsb'_and, h, BitVec.and_allOnes]

theorem extractLsb'_and_of_zero (w : Word) {m : Word} {start len : Nat} (h : m.extractLsb' start len = 0#len) :
    (w &&& m).extractLsb' start len = 0#len := by
  rw [BitVec.extractLsb'_and, h, BitVec.and_zero]

/-- The mask of CHECK and UPDATE ignores SEEDSEL and nothing else. -/
theorem and_checkerMask_eq_iff {w : Word} {op : BitVec 4} :
    w &&& 0xFFFFFFCF#32 = commandWord op 0 0 ↔ w = commandWord op (seedSelField w) 0 := by
  have hop : opField (w &&& 0xFFFFFFCF#32) = opField w := extractLsb'_and_of_allOnes w rfl
  have hsel : seedSelField (w &&& 0xFFFFFFCF#32) = 0 := extractLsb'_and_of_zero w rfl
  have hlow : reservedLowField (w &&& 0xFFFFFFCF#32) = reservedLowField w := extractLsb'_and_of_allOnes w rfl
  have ht : transportField (w &&& 0xFFFFFFCF#32) = transportField w := extractLsb'_and_of_allOnes w rfl
  have hhigh : reservedHighField (w &&& 0xFFFFFFCF#32) = reservedHighField w := extractLsb'_and_of_allOnes w rfl
  rw [eq_commandWord_iff, eq_commandWord_iff, hop, hsel, hlow, ht, hhigh]
  simp only [true_and]

/-- The mask of DECODE ignores T and nothing else. -/
theorem and_decodeMask_eq_iff {w : Word} {op : BitVec 4} :
    w &&& 0xFFFFFEFF#32 = commandWord op 0 0 ↔ w = commandWord op 0 (transportField w) := by
  have hop : opField (w &&& 0xFFFFFEFF#32) = opField w := extractLsb'_and_of_allOnes w rfl
  have hsel : seedSelField (w &&& 0xFFFFFEFF#32) = seedSelField w := extractLsb'_and_of_allOnes w rfl
  have hlow : reservedLowField (w &&& 0xFFFFFEFF#32) = reservedLowField w := extractLsb'_and_of_allOnes w rfl
  have ht : transportField (w &&& 0xFFFFFEFF#32) = 0 := extractLsb'_and_of_zero w rfl
  have hhigh : reservedHighField (w &&& 0xFFFFFEFF#32) = reservedHighField w := extractLsb'_and_of_allOnes w rfl
  rw [eq_commandWord_iff, eq_commandWord_iff, hop, hsel, hlow, ht, hhigh]
  simp only [true_and]

/-! ## Decoding and encoding -/

@[simp] theorem SeedSel.toField_ofField (b : BitVec 2) : (SeedSel.ofField b).toField = b := by
  revert b
  decide

@[simp] theorem Transport.toField_ofField (b : BitVec 1) : (Transport.ofField b).toField = b := by
  revert b
  decide

/-- An instruction comes back from its word. -/
theorem classify_encode (i : Instr) : classify (encode i) = some i := by
  cases i with
  | check sel => cases sel <;> rfl
  | update sel => cases sel <;> rfl
  | decode t => cases t <;> rfl

/-- A word that decodes is the word of what it decodes to: its mask ignores only the operand field. -/
theorem eq_encode_of_classify {w : Word} {i : Instr} (h : classify w = some i) : w = encode i := by
  unfold classify at h
  split at h
  next hmask =>
    cases h
    rw [encode, SeedSel.toField_ofField]
    exact and_checkerMask_eq_iff.mp hmask
  split at h
  next hmask =>
    cases h
    rw [encode, SeedSel.toField_ofField]
    exact and_checkerMask_eq_iff.mp hmask
  split at h
  next hmask =>
    cases h
    rw [encode, Transport.toField_ofField]
    exact and_decodeMask_eq_iff.mp hmask
  next => cases h

theorem classify_eq_some_iff {w : Word} {i : Instr} : classify w = some i ↔ w = encode i :=
  ⟨eq_encode_of_classify, fun h => h ▸ classify_encode i⟩

/-- Settles O2, each direction by its own lemma. -/
theorem wordMeansInstrIffEncoded : Obligations.WordMeansInstrIffEncoded := fun _ _ => classify_eq_some_iff

/-! ## Illegal words -/

/-- The complement of R96: which words decode, by their fields. -/
theorem isSome_classify_iff (w : Word) : (classify w).isSome = true ↔
    reservedHighField w = 0#23 ∧ reservedLowField w = 0#2 ∧
      (((opField w = 1#4 ∨ opField w = 2#4) ∧ transportField w = 0#1) ∨
        (opField w = 3#4 ∧ seedSelField w = 0#2)) := by
  simp only [Option.isSome_iff_exists, classify_eq_some_iff]
  constructor
  · rintro ⟨i, hi⟩
    cases i with
    | check sel =>
      obtain ⟨hop, -, ht, hlow, hhigh⟩ := eq_commandWord_iff.mp hi
      exact ⟨hhigh, hlow, .inl ⟨.inl hop, ht⟩⟩
    | update sel =>
      obtain ⟨hop, -, ht, hlow, hhigh⟩ := eq_commandWord_iff.mp hi
      exact ⟨hhigh, hlow, .inl ⟨.inr hop, ht⟩⟩
    | decode t =>
      obtain ⟨hop, hsel, -, hlow, hhigh⟩ := eq_commandWord_iff.mp hi
      exact ⟨hhigh, hlow, .inr ⟨hop, hsel⟩⟩
  · rintro ⟨hhigh, hlow, ⟨hop | hop, ht⟩ | ⟨hop, hsel⟩⟩
    · exact ⟨.check (.ofField (seedSelField w)), eq_commandWord_iff.mpr ⟨hop, by simp, ht, hlow, hhigh⟩⟩
    · exact ⟨.update (.ofField (seedSelField w)), eq_commandWord_iff.mpr ⟨hop, by simp, ht, hlow, hhigh⟩⟩
    · exact ⟨.decode (.ofField (transportField w)), eq_commandWord_iff.mpr ⟨hop, hsel, by simp, hlow, hhigh⟩⟩

theorem getLsbD_eight_iff (w : Word) : w.getLsbD 8 = true ↔ transportField w ≠ 0#1 := by
  have hbit : w.getLsbD 8 = (transportField w).getLsbD 0 := by simp [transportField]
  rw [hbit]
  generalize transportField w = t
  revert t
  decide

/-- R96: which words do not decode, by their fields. -/
theorem classify_eq_none_iff (w : Word) : classify w = none ↔
    (opField w ≠ 1#4 ∧ opField w ≠ 2#4 ∧ opField w ≠ 3#4) ∨ reservedHighField w ≠ 0#23 ∨ reservedLowField w ≠ 0#2 ∨
      ((opField w = 1#4 ∨ opField w = 2#4) ∧ w.getLsbD 8 = true) ∨ (opField w = 3#4 ∧ seedSelField w ≠ 0#2) := by
  have h31 : opField w = 3#4 → opField w ≠ 1#4 := fun h => by rw [h]; decide
  have h32 : opField w = 3#4 → opField w ≠ 2#4 := fun h => by rw [h]; decide
  rw [← Option.not_isSome_iff_eq_none, isSome_classify_iff, getLsbD_eight_iff]
  tauto

end Sys2Proof

namespace Sys2Proof.Machine

/-- Settles O3: R96 field by field, CMD's acceptance of any word, and the completion of R201. -/
theorem illegalWordsCompleteWithoutEffect : Obligations.IllegalWordsCompleteWithoutEffect :=
  ⟨classify_eq_none_iff, fun s w _ hidle => idleCmdWriteIsAccepted s w hidle,
    fun _ _ hillegal hw => engineStep_of_illegal hw hillegal⟩

/-! ## Mnemonics and WAIT -/

/-- Settles O1: each listed word is its command's encoding, which is what the mnemonic writes and what decodes to the
command. -/
theorem mnemonicsStandForTheirWords : Obligations.MnemonicsStandForTheirWords := by
  refine ⟨fun cfg p hp => ?_, fun _ _ => rfl⟩
  have hword : p.2 = encode p.1 := by
    revert p
    decide
  rw [hword]
  exact ⟨rfl, classify_encode p.1⟩

/-- Settles O50: the answer is STATUS, whose bit 0 is the busy element WAIT goes by. -/
theorem waitEndsWhenBusyReadsZero : Obligations.WaitEndsWhenBusyReadsZero := by
  intro s rest hin
  have hbit := getLsbD_zero_readReg_status s (Config.draw s.draws)
  refine ⟨s.readReg (Config.draw s.draws) .status, ?_, hbit, ?_, ?_⟩
  · rw [hostRead_reg s regAt_status, State.respond_responses]
  · rw [hostStep_wait hin, hostRead_reg s regAt_status, hbit, hin]
    exact hostRead_reg _ regAt_status
  · rw [hostStep_wait hin, block_hostRead]
    rfl

/-! ## The bytes DECODE does not use -/

/-- The unpacked report is made of the bytes that carry a field (R111, R112). -/
theorem unpackReport_congr {m n : Memory} (h : ∀ a, reportFieldOffset a → m.read a = n.read a) :
    unpackReport m = unpackReport n := by
  have hbyte {a : Nat} (ha : a < 12 ∨ (16 ≤ a ∧ a < 32) ∨ (33 ≤ a ∧ a < 41) ∨ a = 53) : m.read a = n.read a := h a ha
  have hfields (p k : Nat) (hp : p + k ≤ 12 ∨ (16 ≤ p ∧ p + k ≤ 32)) : memRead m p k = memRead n p k :=
    memRead_congr fun b hlo hhi => hbyte (by omega)
  simp (disch := omega) only [unpackReport, le32, s16At, le16, touchAt, hfields, hbyte]

/-- Settles O25, by the three ways DECODE can end: both states end the same way. -/
theorem decodeIgnoresReservedBytes : Obligations.DecodeIgnoresReservedBytes := by
  intro tr s r hs hr hlen hbytes
  have hid : r.buf.read 0 = s.buf.read 0 := hbytes 0 (.inl (by decide))
  have hcs := decodeReach_le_of_wf hs
  have hcr := decodeReach_le_of_wf hr
  by_cases hl : s.len.toNat = transportSize tr
  · have hl' : r.len.toNat = transportSize tr := hlen ▸ hl
    by_cases hv : s.buf.read 0 = transportReportId tr
    · exact ⟨_, _, execDecode_of_valid hl hcs hv, execDecode_of_valid hl' hcr (hid.trans hv), rfl, rfl, rfl,
        fun _ => unpackReport_congr hbytes⟩
    · exact ⟨_, _, execDecode_of_reportIdBad hl hcs hv, execDecode_of_reportIdBad hl' hcr (hid ▸ hv), rfl, rfl, rfl,
        fun h => by simp at h⟩
  · have hl' : r.len.toNat ≠ transportSize tr := hlen ▸ hl
    exact ⟨_, _, execDecode_of_lengthBad hl, execDecode_of_lengthBad hl', rfl, rfl, rfl, fun h => by simp at h⟩

end Sys2Proof.Machine
end

section
/-! PROOFS. The statements of spec/40_decoder.md: the two checks of DECODE in their order (R141, R142), the fields it
unpacks (R143 to R145), and that the report registers determine the bytes they come from (R149). -/
namespace Sys2Proof.Machine

/-! ## Little-endian numbers and their bytes -/

/-- Byte `k` of a little-endian number is the byte at `p + k` (R12). -/
theorem leNat_byte (m : Memory) (p : Nat) {n k : Nat} (hk : k < n) :
    leNat m p n / 256 ^ k % 256 = (m.read (p + k)).toNat := by
  induction k generalizing p n with
  | zero =>
    obtain ⟨n, rfl⟩ : ∃ n', n = n' + 1 := ⟨n - 1, by omega⟩
    have hb := (m.read p).isLt
    rw [Nat.add_zero p, leNat, pow_zero, Nat.div_one]
    omega
  | succ k ih =>
    obtain ⟨n, rfl⟩ : ∃ n', n = n' + 1 := ⟨n - 1, by omega⟩
    have hb := (m.read p).isLt
    have hrest : leNat m p (n + 1) / 256 = leNat m (p + 1) n := by
      rw [leNat]
      omega
    rw [Nat.pow_succ', ← Nat.div_div_eq_div_mul, hrest, ih (p + 1) (by omega), Nat.add_assoc, Nat.add_comm 1 k]

/-- Equal little-endian numbers come from equal bytes. -/
theorem read_eq_of_leNat_eq {m m' : Memory} {p n : Nat} (h : leNat m p n = leNat m' p n) {a : Nat} (hlo : p ≤ a)
    (hhi : a < p + n) : m.read a = m'.read a := by
  obtain ⟨k, rfl⟩ := Nat.exists_eq_add_of_le hlo
  apply BitVec.eq_of_toNat_eq
  rw [← leNat_byte m p (by omega : k < n), ← leNat_byte m' p (by omega : k < n), h]

theorem toNat_le32 (m : Memory) (p : Nat) : (le32 m p).toNat = leNat m p 4 := toNat_memRead m p (by decide)

theorem leNat_four (m : Memory) (p : Nat) : leNat m p 4 = (m.read p).toNat + (m.read (p + 1)).toNat * 2 ^ 8 +
    (m.read (p + 2)).toNat * 2 ^ 16 + (m.read (p + 3)).toNat * 2 ^ 24 := by
  simp only [leNat, Nat.add_assoc, Nat.reduceAdd]
  omega

theorem toNat_le16 (m : Memory) (p : Nat) : (le16 m p).toNat = leNat m p 2 := by
  rw [le16, BitVec.toNat_setWidth, toNat_memRead m p (by decide)]
  exact Nat.mod_eq_of_lt (leNat_lt m p 2)

/-- Byte lane `k` of LE32(p) is the byte at `p + k` (R41, R43). -/
theorem extractLsb'_le32 (m : Memory) (p : Nat) {k : Nat} (hk : k < 4) :
    (le32 m p).extractLsb' (8 * k) 8 = m.read (p + k) := by
  apply BitVec.eq_of_toNat_eq
  rw [BitVec.extractLsb'_toNat, toNat_le32, Nat.shiftRight_eq_div_pow, Nat.pow_mul, leNat_byte m p hk]

theorem read_eq_of_le32_eq {m m' : Memory} {p : Nat} (h : le32 m p = le32 m' p) {a : Nat} (hlo : p ≤ a)
    (hhi : a < p + 4) : m.read a = m'.read a :=
  read_eq_of_leNat_eq (n := 4) (by rw [← toNat_le32, ← toNat_le32, h]) hlo hhi

/-! ## The motion fields -/

/-- A motion register holds the field's two's complement value (R13, R144). -/
theorem toInt_s16At (m : Memory) (p : Nat) : (s16At m p).toInt = leInt16 m p := by
  rw [s16At, BitVec.toInt_signExtend_of_le (by decide), BitVec.toInt_eq_toNat_cond, toNat_le16, leInt16]
  omega

theorem read_eq_of_s16At_eq {m m' : Memory} {p : Nat} (h : s16At m p = s16At m' p) {a : Nat} (hlo : p ≤ a)
    (hhi : a < p + 2) : m.read a = m'.read a := by
  have hint : leInt16 m p = leInt16 m' p := by rw [← toInt_s16At, ← toInt_s16At, h]
  have hlt := leNat_lt m p 2
  have hlt' := leNat_lt m' p 2
  refine read_eq_of_leNat_eq (n := 2) ?_ hlo hhi
  rw [leInt16, leInt16] at hint
  omega

/-! ## Fields side by side in a word -/

/-- A field laid above the bits in use adds to the number. -/
theorem toNat_or_setWidth_shiftLeft {v w k : Nat} {x : BitVec w} {y : BitVec v} (hx : x.toNat < 2 ^ k)
    (hy : y.toNat * 2 ^ k < 2 ^ w) : (x ||| y.setWidth w <<< k).toNat = x.toNat + y.toNat * 2 ^ k := by
  have hfits : y.toNat < 2 ^ w := lt_of_le_of_lt (Nat.le_mul_of_pos_right _ (Nat.two_pow_pos k)) hy
  rw [BitVec.toNat_or, BitVec.toNat_shiftLeft, BitVec.toNat_setWidth, Nat.mod_eq_of_lt hfits, Nat.shiftLeft_eq,
    Nat.mod_eq_of_lt hy, Nat.or_comm, ← Nat.shiftLeft_eq, ← Nat.shiftLeft_add_eq_or_of_lt hx, Nat.shiftLeft_eq,
    Nat.add_comm]

theorem toNat_packBytes (b0 b1 b2 b3 : Byte) :
    (packBytes b0 b1 b2 b3).toNat = b0.toNat + b1.toNat * 2 ^ 8 + b2.toNat * 2 ^ 16 + b3.toNat * 2 ^ 24 := by
  have h0 := b0.isLt
  have h1 := b1.isLt
  have h2 := b2.isLt
  have h3 := b3.isLt
  have e0 : (b0.setWidth 32).toNat = b0.toNat := BitVec.toNat_setWidth_of_le (by decide)
  have e1 := toNat_or_setWidth_shiftLeft (x := b0.setWidth 32) (y := b1) (k := 8) (by omega) (by omega)
  have e2 := toNat_or_setWidth_shiftLeft (y := b2) (k := 16) (by rw [e1]; omega) (by omega)
  rw [packBytes, toNat_or_setWidth_shiftLeft (by rw [e2, e1]; omega) (by omega), e2, e1, e0]

/-- The four lanes of TRIG hold the four bytes (R42). -/
theorem extractLsb'_packBytes (b0 b1 b2 b3 : Byte) :
    (packBytes b0 b1 b2 b3).extractLsb' 0 8 = b0 ∧ (packBytes b0 b1 b2 b3).extractLsb' 8 8 = b1 ∧
    (packBytes b0 b1 b2 b3).extractLsb' 16 8 = b2 ∧ (packBytes b0 b1 b2 b3).extractLsb' 24 8 = b3 := by
  have h0 := b0.isLt
  have h1 := b1.isLt
  have h2 := b2.isLt
  simp only [← BitVec.toNat_inj, BitVec.extractLsb'_toNat, toNat_packBytes, Nat.shiftRight_eq_div_pow]
  omega

theorem packBytes_inj {b0 b1 b2 b3 c0 c1 c2 c3 : Byte} (h : packBytes b0 b1 b2 b3 = packBytes c0 c1 c2 c3) :
    b0 = c0 ∧ b1 = c1 ∧ b2 = c2 ∧ b3 = c3 := by
  obtain ⟨hb0, hb1, hb2, hb3⟩ := extractLsb'_packBytes b0 b1 b2 b3
  obtain ⟨hc0, hc1, hc2, hc3⟩ := extractLsb'_packBytes c0 c1 c2 c3
  rw [h] at hb0 hb1 hb2 hb3
  exact ⟨hb0.symm.trans hc0, hb1.symm.trans hc1, hb2.symm.trans hc2, hb3.symm.trans hc3⟩

/-! ## The touch fields -/

theorem toNat_touchX (b1 b2 : Byte) : (touchX b1 b2).toNat = b1.toNat + 256 * (b2.toNat % 16) := by
  have h1 := b1.isLt
  have hlow : (b2 &&& 0x0F#8).toNat = b2.toNat % 16 := Nat.and_two_pow_sub_one_eq_mod b2.toNat 4
  have e1 : (b1.setWidth 12).toNat = b1.toNat := BitVec.toNat_setWidth_of_le (by decide)
  rw [touchX, toNat_or_setWidth_shiftLeft (by omega) (by omega), e1, hlow]
  omega

theorem toNat_touchY (b2 b3 : Byte) : (touchY b2 b3).toNat = b2.toNat / 16 + 16 * b3.toNat := by
  have h2 := b2.isLt
  have h3 := b3.isLt
  have hhigh : ((b2 >>> 4).setWidth 12).toNat = b2.toNat / 16 := by
    rw [BitVec.toNat_setWidth_of_le (by decide), BitVec.toNat_ushiftRight, Nat.shiftRight_eq_div_pow]
  rw [touchY, toNat_or_setWidth_shiftLeft (by omega) (by omega), hhigh]
  omega

/-- Settles O27: the numbers of both formulas, and the mask each formula puts on byte2. -/
theorem touchNibblesAreDisjoint : Obligations.TouchNibblesAreDisjoint := by
  intro b1 b2 b3 b2'
  refine ⟨toNat_touchX b1 b2, toNat_touchY b2 b3, ?_, ?_, fun hlow => ?_, fun hhigh => ?_⟩
  · apply BitVec.eq_of_toNat_eq
    rw [BitVec.extractLsb'_toNat, toNat_touchX]
    omega
  · apply BitVec.eq_of_toNat_eq
    rw [BitVec.extractLsb'_toNat, toNat_touchY, Nat.shiftRight_eq_div_pow]
    omega
  · rw [touchX, touchX, hlow]
  · have hshift (b : Byte) : b >>> 4 = (b &&& 0xF0#8) >>> 4 := by
      revert b
      decide
    rw [touchY, touchY, hshift b2, hshift b2', hhigh]

/-- The two formulas of R145 put byte2 together again: a touch register is the field's four bytes as they lie. -/
theorem touchAt_eq_le32 (m : Memory) (p : Nat) : touchAt m p = le32 m p := by
  have hc := (m.read p).isLt
  have hx := (touchX (m.read (p + 1)) (m.read (p + 2))).isLt
  have hy := (touchY (m.read (p + 2)) (m.read (p + 3))).isLt
  have ec : ((m.read p).setWidth 32).toNat = (m.read p).toNat := BitVec.toNat_setWidth_of_le (by decide)
  have ex := toNat_or_setWidth_shiftLeft (x := (m.read p).setWidth 32)
    (y := touchX (m.read (p + 1)) (m.read (p + 2))) (k := 8) (by omega) (by omega)
  apply BitVec.eq_of_toNat_eq
  rw [touchAt, toNat_or_setWidth_shiftLeft (by rw [ex]; omega) (by omega), ex, ec, toNat_touchX, toNat_touchY,
    toNat_le32, leNat_four]
  omega

/-- The fields of a touch register (R47, R145). -/
theorem touchAt_fields (m : Memory) (p : Nat) :
    (touchAt m p).extractLsb' 0 8 = m.read p ∧
    ((touchAt m p).extractLsb' 8 12).toNat = (m.read (p + 1)).toNat + 256 * ((m.read (p + 2)).toNat % 16) ∧
    ((touchAt m p).extractLsb' 20 12).toNat = (m.read (p + 2)).toNat / 16 + 16 * (m.read (p + 3)).toNat := by
  have h0 := (m.read p).isLt
  have h1 := (m.read (p + 1)).isLt
  have h2 := (m.read (p + 2)).isLt
  have h3 := (m.read (p + 3)).isLt
  rw [touchAt_eq_le32]
  refine ⟨extractLsb'_le32 m p (k := 0) (by decide), ?_, ?_⟩
  all_goals
    rw [BitVec.extractLsb'_toNat, toNat_le32, leNat_four, Nat.shiftRight_eq_div_pow]
    omega

/-! ## The two checks -/

/-- The half word LEN holds for a transport's size (R110). -/
theorem toNat_eq_transportSize_iff (tr : Transport) (len : Half) :
    len.toNat = transportSize tr ↔ len = BitVec.ofNat 16 (transportSize tr) := by
  have hsize : (BitVec.ofNat 16 (transportSize tr)).toNat = transportSize tr := by
    cases tr <;> rfl
  rw [← BitVec.toNat_inj, hsize]

/-- Settles O24, by the case lemmas of DECODE: 78 bytes fit every allowed BUF. -/
theorem decodeChecksLengthThenReportId : Obligations.DecodeChecksLengthThenReportId := by
  refine ⟨fun tr s hlen => ?_, fun tr s hc hlen hid => ?_, fun tr cfg hc => ?_⟩
  · have hl : s.len.toNat ≠ transportSize tr := by
      rw [ne_eq, toNat_eq_transportSize_iff]
      cases tr <;> exact hlen
    exact execDecode_of_lengthBad hl
  · have hl : s.len.toNat = transportSize tr := by
      rw [toNat_eq_transportSize_iff]
      cases tr <;> exact hlen
    have hr : s.buf.read 0 ≠ transportReportId tr := by
      cases tr <;> exact hid
    exact execDecode_of_reportIdBad hl (decodeReach_le_of_wf hc) hr
  · have hcap : 78 ≤ cfg.bufCap := by
      simp only [Config.wf, Bool.and_eq_true, decide_eq_true_eq] at hc
      omega
    cases tr with
    | usb => exact le_trans (by decide) hcap
    | bluetooth => exact hcap

/-! ## A DECODE that succeeds -/

/-- Settles O23: the registers are those of `unpackReport`, field by field. -/
theorem decodeUnpacksTheReport : Obligations.DecodeUnpacksTheReport := by
  intro tr s hc husb hbt
  obtain ⟨hl, hr⟩ : s.len.toNat = transportSize tr ∧ s.buf.read 0 = transportReportId tr := by
    rw [toNat_eq_transportSize_iff]
    cases tr with
    | usb => exact husb rfl
    | bluetooth => exact hbt rfl
  obtain ⟨htrig0, htrig1, htrig2, htrig3⟩ :=
    extractLsb'_packBytes (s.buf.read 5) (s.buf.read 6) (s.buf.read 7) (s.buf.read 53)
  refine ⟨unpackReport s.buf, execDecode_of_valid hl (decodeReach_le_of_wf hc) hr, fun k => extractLsb'_le32 s.buf 1,
    fun k hk => ?trig, htrig3, fun k => extractLsb'_le32 s.buf 8, toInt_s16At s.buf 16, toInt_s16At s.buf 18,
    toInt_s16At s.buf 20, toInt_s16At s.buf 22, toInt_s16At s.buf 24, toInt_s16At s.buf 26, toNat_le32 s.buf 28,
    fun q hq => ?touch⟩
  case trig =>
    rcases (by omega : k = 0 ∨ k = 1 ∨ k = 2) with rfl | rfl | rfl
    · exact htrig0
    · exact htrig1
    · exact htrig2
  case touch =>
    simp only [List.mem_cons, List.not_mem_nil, or_false] at hq
    rcases hq with rfl | rfl
    · exact touchAt_fields s.buf 33
    · exact touchAt_fields s.buf 37

theorem exec_decode_rpt {tr : Transport} {s t : State} (h : exec (.decode tr) s = .next t)
    (hv : t.reportValid = true) : t.rpt = unpackReport s.buf := by
  rcases exec_cases h with ⟨_, hi, -⟩ | ⟨_, hi, -⟩ | ⟨⟨_, hi | hi⟩, -⟩ | ⟨_, -, -, rfl⟩ | ⟨_, -, -, -, rfl⟩ |
    ⟨_, -, -, -, rfl⟩
  · cases hi
  · cases hi
  · cases hi
  · cases hi
  · simp at hv
  · simp at hv
  · rfl

/-- No field is lost: equal report registers come from equal bytes at every field offset but that of the report ID. -/
theorem read_eq_of_unpackReport_eq {m m' : Memory} (h : unpackReport m = unpackReport m') {a : Nat} (ha : 1 ≤ a)
    (hfield : reportFieldOffset a) : m.read a = m'.read a := by
  have htouch0 := congrArg Report.touch0 h
  have htouch1 := congrArg Report.touch1 h
  simp only [unpackReport, touchAt_eq_le32] at htouch0 htouch1
  obtain ⟨h5, h6, h7, h53⟩ := packBytes_inj (congrArg Report.trig h)
  rcases (by unfold reportFieldOffset at hfield; omega : (1 ≤ a ∧ a < 5) ∨ a = 5 ∨ a = 6 ∨ a = 7 ∨ (8 ≤ a ∧ a < 12) ∨
    (16 ≤ a ∧ a < 18) ∨ (18 ≤ a ∧ a < 20) ∨ (20 ≤ a ∧ a < 22) ∨ (22 ≤ a ∧ a < 24) ∨ (24 ≤ a ∧ a < 26) ∨
    (26 ≤ a ∧ a < 28) ∨ (28 ≤ a ∧ a < 32) ∨ (33 ≤ a ∧ a < 37) ∨ (37 ≤ a ∧ a < 41) ∨ a = 53) with
    ⟨hlo, hhi⟩ | rfl | rfl | rfl | ⟨hlo, hhi⟩ | ⟨hlo, hhi⟩ | ⟨hlo, hhi⟩ | ⟨hlo, hhi⟩ | ⟨hlo, hhi⟩ | ⟨hlo, hhi⟩ |
    ⟨hlo, hhi⟩ | ⟨hlo, hhi⟩ | ⟨hlo, hhi⟩ | ⟨hlo, hhi⟩ | rfl
  · exact read_eq_of_le32_eq (congrArg Report.sticks h) hlo hhi
  · exact h5
  · exact h6
  · exact h7
  · exact read_eq_of_le32_eq (congrArg Report.buttons h) hlo hhi
  · exact read_eq_of_s16At_eq (congrArg Report.gyroX h) hlo hhi
  · exact read_eq_of_s16At_eq (congrArg Report.gyroY h) hlo hhi
  · exact read_eq_of_s16At_eq (congrArg Report.gyroZ h) hlo hhi
  · exact read_eq_of_s16At_eq (congrArg Report.accelX h) hlo hhi
  · exact read_eq_of_s16At_eq (congrArg Report.accelY h) hlo hhi
  · exact read_eq_of_s16At_eq (congrArg Report.accelZ h) hlo hhi
  · exact read_eq_of_le32_eq (congrArg Report.timestamp h) hlo hhi
  · exact read_eq_of_le32_eq htouch0 hlo hhi
  · exact read_eq_of_le32_eq htouch1 hlo hhi
  · exact h53

/-- Settles O26: both DECODEs left the unpacked registers, and unpacking loses no byte. -/
theorem reportRegistersDetermineTheBytes : Obligations.ReportRegistersDetermineTheBytes := by
  intro tr tr' s r t u hs hr ht hu hrpt a ha hfield
  have h : unpackReport s.buf = unpackReport r.buf := by
    rw [← exec_decode_rpt hs ht, ← exec_decode_rpt hr hu, hrpt]
  exact read_eq_of_unpackReport_eq h ha hfield

end Sys2Proof.Machine
end

section
/-! PROOFS. The statements of spec/41_crc.md: the algebra of R170's step (R170, R171), what CHECK and UPDATE do (R174,
R175), and what one says of the other's trailer (R176 to R179). -/
namespace Sys2Proof.Machine

/-! ## The bit-serial step is linear -/

theorem crcBit_xor (c d : Word) : crcBit (c ^^^ d) = crcBit c ^^^ crcBit d := by
  have hmove (x y : Word) : (x ^^^ crcPolynomial) ^^^ y = x ^^^ y ^^^ crcPolynomial := by ac_rfl
  have hcancel (x y : Word) : (x ^^^ crcPolynomial) ^^^ (y ^^^ crcPolynomial) = x ^^^ y := by
    rw [hmove, BitVec.xor_assoc, BitVec.xor_assoc, BitVec.xor_self, BitVec.xor_zero]
  simp only [crcBit, BitVec.getLsbD_xor, BitVec.ushiftRight_xor_distrib]
  cases c.getLsbD 0 <;> cases d.getLsbD 0
  · rfl
  · exact BitVec.xor_assoc _ _ _
  · exact (hmove _ _).symm
  · exact (hcancel _ _).symm

theorem crcBits_xor (k : Nat) (c d : Word) : crcBits k (c ^^^ d) = crcBits k c ^^^ crcBits k d := by
  induction k generalizing c d with
  | zero => rfl
  | succ k ih => rw [crcBits, crcBits, crcBits, crcBit_xor, ih]

/-- While only zeros are shifted out, the polynomial is never folded in. -/
theorem crcBits_of_low_zero (k : Nat) {c : Word} (h : ∀ i < k, c.getLsbD i = false) : crcBits k c = c >>> k := by
  induction k generalizing c with
  | zero => rfl
  | succ k ih =>
    have hbit : crcBit c = c >>> 1 := if_neg (by rw [h 0 (by omega)]; decide)
    have hlow : ∀ i < k, (c >>> 1).getLsbD i = false := fun i hi => by
      rw [BitVec.getLsbD_ushiftRight]
      exact h _ (by omega)
    rw [crcBits, hbit, ih hlow, ← BitVec.shiftRight_add, Nat.add_comm]

/-- A word of one byte is shifted out whole. -/
theorem ushiftRight_eight_eq_zero {v : Word} (h : v.toNat < 256) : v >>> 8 = 0 := by
  apply BitVec.eq_of_toNat_eq
  rw [BitVec.toNat_ushiftRight, Nat.shiftRight_eq_div_pow]
  exact Nat.div_eq_of_lt h

/-- Settles O22: of register xor data the loop shifts the upper bytes down, which are the register's, and by linearity
the low byte adds its table entry. -/
theorem tableDrivenStepAgrees : Obligations.TableDrivenStepAgrees := by
  intro c b
  let x := c ^^^ b.setWidth 32
  let low := x &&& 0xFF#32
  have hsplit : x ^^^ low ^^^ low = x := by rw [BitVec.xor_assoc, BitVec.xor_self, BitVec.xor_zero]
  have hzero : ∀ i < 8, (x ^^^ low).getLsbD i = false := fun i hi => by
    have hmask : (0xFF#32).getLsbD i = true := by
      revert i
      decide
    rw [BitVec.getLsbD_xor, BitVec.getLsbD_and, hmask, Bool.and_true, Bool.xor_self]
  have hbyte : b.setWidth 32 >>> 8 = 0#32 :=
    ushiftRight_eight_eq_zero (by rw [BitVec.toNat_setWidth_of_le (by decide)]; exact b.isLt)
  have hlow : low >>> 8 = 0#32 :=
    ushiftRight_eight_eq_zero (by rw [BitVec.toNat_and]; exact Nat.lt_succ_of_le Nat.and_le_right)
  have hupper : (x ^^^ low) >>> 8 = c >>> 8 := by
    rw [BitVec.ushiftRight_xor_distrib, hlow, BitVec.xor_zero, BitVec.ushiftRight_xor_distrib, hbyte, BitVec.xor_zero]
  calc crcStep c b = crcBits 8 (x ^^^ low ^^^ low) := by rw [hsplit]; rfl
    _ = crcBits 8 (x ^^^ low) ^^^ crcBits 8 low := crcBits_xor 8 _ _
    _ = c >>> 8 ^^^ crcBits 8 low := by rw [crcBits_of_low_zero 8 hzero, hupper]

/-- Settles O20: PREFIX_BYTE folds the seed as the first byte, and the two registers are computed. -/
theorem seededCrcIsCrcOfSeedThenData : Obligations.SeededCrcIsCrcOfSeedThenData :=
  ⟨fun _ _ => rfl, by decide, by decide⟩

/-! ## The covered region and the trailer -/

theorem bytesFrom_eq_map_range' (m : Memory) (a n : Nat) : bytesFrom m a n = (List.range' a n).map m.read := by
  induction n generalizing a with
  | zero => rfl
  | succ n ih => rw [bytesFrom, ih, List.range'_succ, List.map_cons]

theorem State.coveredCrc_eq (s : State) (seed : Byte) : s.coveredCrc seed =
    crc32Seeded s.cfg.seeding seed ((List.range (s.len.toNat - 4)).map s.buf.read) := by
  rw [State.coveredCrc, bytesFrom_eq_map_range', List.range_eq_range']
  rfl

theorem State.coveredCrc_congr {s r : State} (hcfg : r.cfg = s.cfg) (hlen : r.len = s.len)
    (h : ∀ a, a < s.len.toNat - 4 → r.buf.read a = s.buf.read a) (seed : Byte) :
    r.coveredCrc seed = s.coveredCrc seed := by
  have hbytes : bytesFrom r.buf 0 (s.len.toNat - 4) = bytesFrom s.buf 0 (s.len.toNat - 4) :=
    bytesFrom_congr fun b _ hb => h b (by omega)
  rw [State.coveredCrc, State.coveredCrc, State.trailerAt_eq, State.trailerAt_eq, hcfg, hlen, hbytes]

theorem State.trailer_congr {s r : State} (hlen : r.len = s.len) (hlo : 4 ≤ s.len.toNat)
    (h : ∀ a, s.len.toNat - 4 ≤ a → a < s.len.toNat → r.buf.read a = s.buf.read a) :
    le32 r.buf r.trailerAt = le32 s.buf s.trailerAt := by
  rw [State.trailerAt_eq, State.trailerAt_eq, hlen]
  exact memRead_congr fun b hb hb' => h b hb (by omega)

/-- The trailer lies in BUF when the length passes (R173). -/
theorem State.trailerAt_add_four_le {s : State} (hlo : 4 ≤ s.len.toNat) (hhi : s.len.toNat ≤ s.cfg.bufCap) :
    s.trailerAt + 4 ≤ s.cfg.bufCap := by
  rw [State.trailerAt_eq]
  omega

/-- Stamping leaves the covered region, and so its CRC, as it was (R175). -/
theorem State.coveredCrc_stampTrailer {s : State} (hbuf : s.buf.wf s.cfg.bufCap = true)
    (hp : s.trailerAt + 4 ≤ s.cfg.bufCap) (c : Word) (seed : Byte) :
    (s.stampTrailer c).coveredCrc seed = s.coveredCrc seed :=
  State.coveredCrc_congr (s.stampTrailer_cfg c) (s.stampTrailer_len c)
    (fun _ ha => read_memWrite_outside hbuf hp c (.inl ha)) seed

/-- Two seeds give different CRCs of the same covered region, under either seeding. -/
theorem State.coveredCrc_seed_injective (s : State) {a b : Byte} (h : s.coveredCrc a = s.coveredCrc b) : a = b :=
  crcStart_injective s.cfg.seeding (crcFold_injective _ ((crc32Seeded_eq_iff _ a b _ _).mp h))

/-- One changed byte of the covered region changes its CRC. -/
theorem State.coveredCrc_ne_of_one_byte {s r : State} (hcfg : r.cfg = s.cfg) (hlen : r.len = s.len) {a : Nat}
    (ha : a < s.len.toNat - 4) (hne : r.buf.read a ≠ s.buf.read a)
    (hrest : ∀ b, b < s.len.toNat - 4 → b ≠ a → r.buf.read b = s.buf.read b) (seed : Byte) :
    r.coveredCrc seed ≠ s.coveredCrc seed := by
  have hsplit (m : Memory) : bytesFrom m 0 (s.len.toNat - 4) =
      bytesFrom m 0 a ++ m.read a :: bytesFrom m (a + 1) (s.len.toNat - 4 - a - 1) := by
    have hn : s.len.toNat - 4 = a + (s.len.toNat - 4 - a - 1 + 1) := by omega
    conv_lhs => rw [hn, bytesFrom_add, Nat.zero_add, bytesFrom]
  have hbefore : bytesFrom r.buf 0 a = bytesFrom s.buf 0 a :=
    bytesFrom_congr fun b _ hb => hrest b (by omega) (by omega)
  have hafter : bytesFrom r.buf (a + 1) (s.len.toNat - 4 - a - 1) =
      bytesFrom s.buf (a + 1) (s.len.toNat - 4 - a - 1) :=
    bytesFrom_congr fun b hb hb' => hrest b (by omega) (by omega)
  rw [State.coveredCrc, State.coveredCrc, State.trailerAt_eq, State.trailerAt_eq, hcfg, hlen, ne_eq, crc32Seeded_eq_iff,
    hsplit r.buf, hsplit s.buf, hbefore, hafter]
  exact crcFold_ne_of_one_byte _ _ _ hne

/-- A stored word reads back (R14, R66). -/
theorem le32_memWrite {cap : Nat} {m : Memory} (h : m.wf cap = true) {p : Nat} (hp : p + 4 ≤ cap) (v : Word) :
    le32 (memWrite m p 4 v) p = v := by
  apply BitVec.eq_of_toNat_eq
  rw [toNat_le32, leNat_memWrite h hp]
  exact Nat.mod_eq_of_lt v.isLt

/-! ## CHECK and UPDATE by name -/

/-- The word of a CHECK or UPDATE is its opcode under the mask of R95, whatever SEEDSEL holds. -/
theorem exists_checkerWord_iff {w : Word} {op : BitVec 4} :
    (∃ sel : SeedSel, w = commandWord op sel.toField 0) ↔ w &&& 0xFFFFFFCF#32 = commandWord op 0 0 := by
  rw [and_checkerMask_eq_iff]
  constructor
  · rintro ⟨sel, rfl⟩
    obtain ⟨-, hsel, -⟩ := fields_commandWord op sel.toField 0
    rw [hsel]
  · intro h
    exact ⟨.ofField (seedSelField w), by rwa [SeedSel.toField_ofField]⟩

theorem State.compareTrailer_eq (s : State) (c : Word) : s.compareTrailer c =
    { s with
      crcResult := c
      crcOk := decide (c.toNat = leNat s.buf (s.len.toNat - 4) 4)
      errcode := if c.toNat = leNat s.buf (s.len.toNat - 4) 4 then 0 else 3
      busy := false, done := true, pending := none } := by
  have hiff : c = le32 s.buf s.trailerAt ↔ c.toNat = leNat s.buf (s.len.toNat - 4) 4 := by
    rw [← BitVec.toNat_inj, toNat_le32, State.trailerAt_eq]
  rw [State.compareTrailer]
  split
  next h => simp [State.complete, ErrCode.code, hiff.mp h]
  next h => simp [State.complete, ErrCode.code, mt hiff.mpr h]

theorem exec_check_of_lengthOk (sel : SeedSel) {s : State} (hlo : 4 ≤ s.len.toNat) (hhi : s.len.toNat ≤ s.cfg.bufCap) :
    exec (.check sel) s = .next (s.compareTrailer (s.coveredCrc (seedOf checkSeed sel s))) :=
  execCheck_of_lengthOk sel (s.checkerLengthOk_iff.mpr ⟨hlo, hhi⟩)

theorem exec_update_of_lengthOk (sel : SeedSel) {s : State} (hlo : 4 ≤ s.len.toNat) (hhi : s.len.toNat ≤ s.cfg.bufCap) :
    exec (.update sel) s = .next (s.stampTrailer (s.coveredCrc (seedOf updateSeed sel s))) :=
  execUpdate_of_lengthOk sel (s.checkerLengthOk_iff.mpr ⟨hlo, hhi⟩)

/-- Settles O13, by the two case lemmas of CHECK and the whole state `compareTrailer` gives. -/
theorem checkComparesTheTrailer : Obligations.CheckComparesTheTrailer := by
  refine ⟨fun w => ?encoding, fun sel s => ⟨fun hlo hhi => ?passes, fun hbad => ?fails⟩⟩
  case encoding =>
    simp only [classify_eq_some_iff]
    exact exists_checkerWord_iff (op := 1)
  case passes =>
    rw [exec_check_of_lengthOk sel hlo hhi, State.compareTrailer_eq, State.coveredCrc_eq]
    cases sel <;> rfl
  case fails => exact execCheck_of_lengthBad sel (State.checkerLengthOk_eq_false hbad)

/-- Settles O14, by the two case lemmas of UPDATE: the stored word reads back and nothing else of BUF changes. -/
theorem updateStampsTheTrailer : Obligations.UpdateStampsTheTrailer := by
  refine ⟨fun w => ?encoding, fun sel s hbuf => ?_⟩
  case encoding =>
    simp only [classify_eq_some_iff]
    exact exists_checkerWord_iff (op := 2)
  intro L seed c
  refine ⟨fun hlo hhi => ⟨s.stampTrailer c, ?_, rfl, ?_, fun a ha => ?_⟩, fun hbad => ?_⟩
  · have hc : s.coveredCrc (seedOf updateSeed sel s) = c := by
      rw [State.coveredCrc_eq]
      cases sel <;> rfl
    rw [exec_update_of_lengthOk sel hlo hhi, hc]
  · rw [← toNat_le32]
    exact congrArg BitVec.toNat (le32_memWrite hbuf (State.trailerAt_add_four_le hlo hhi) c)
  · exact read_memWrite_outside hbuf (State.trailerAt_add_four_le hlo hhi) c (by rw [State.trailerAt_eq]; omega)
  · exact execUpdate_of_lengthBad sel (State.checkerLengthOk_eq_false hbad)

/-! ## The verdict of CHECK -/

theorem exec_check_matches {sel : SeedSel} {s : State} (hlo : 4 ≤ s.len.toNat) (hhi : s.len.toNat ≤ s.cfg.bufCap)
    (h : s.coveredCrc (seedOf checkSeed sel s) = le32 s.buf s.trailerAt) :
    ∃ u, exec (.check sel) s = .next u ∧ u.crcOk = true ∧ u.errcode = 0 ∧ u.crcResult = le32 s.buf s.trailerAt :=
  ⟨_, exec_check_of_lengthOk sel hlo hhi, by simp [h], by simp [h], by simp [h]⟩

theorem exec_check_mismatches {sel : SeedSel} {s : State} (hlo : 4 ≤ s.len.toNat) (hhi : s.len.toNat ≤ s.cfg.bufCap)
    (h : s.coveredCrc (seedOf checkSeed sel s) ≠ le32 s.buf s.trailerAt) :
    ∃ u, exec (.check sel) s = .next u ∧ u.crcOk = false ∧ u.errcode = 3 :=
  ⟨_, exec_check_of_lengthOk sel hlo hhi, by simp [h], by simp [h]⟩

/-- Settles O19, by whether the length passes: CHECK is a function of the covered CRC and the trailer. -/
theorem checkReadsOnlyBelowLen : Obligations.CheckReadsOnlyBelowLen := by
  intro sel sel' s r hcfg hlen hseed hbytes
  by_cases hl : 4 ≤ s.len.toNat ∧ s.len.toNat ≤ s.cfg.bufCap
  · obtain ⟨hlo, hhi⟩ := hl
    have hcrc := State.coveredCrc_congr hcfg hlen (fun a ha => hbytes a (by omega)) (seedOf checkSeed sel s)
    have htrailer := State.trailer_congr hlen hlo fun a _ ha => hbytes a ha
    refine ⟨_, _, exec_check_of_lengthOk sel hlo hhi,
      exec_check_of_lengthOk sel' (hlen ▸ hlo) (by rw [hlen, hcfg]; exact hhi), ?_, ?_, fun _ _ => ?_⟩
    · simp [hseed, hcrc, htrailer]
    · simp [hseed, hcrc, htrailer]
    · simp [hseed, hcrc]
  · have hbad : s.len.toNat < 4 ∨ s.cfg.bufCap < s.len.toNat := by omega
    exact ⟨_, _, execCheck_of_lengthBad sel (State.checkerLengthOk_eq_false hbad),
      execCheck_of_lengthBad sel' (State.checkerLengthOk_eq_false (by rwa [hlen, hcfg])), rfl, rfl,
      fun hlo hhi => absurd ⟨hlo, hhi⟩ hl⟩

/-! ## CHECK after UPDATE -/

/-- What UPDATE leaves: a trailer and a CRC_RESULT that are the CRC, with its seed, of the region it covers. -/
theorem exec_update_trailer {sel : SeedSel} {s t : State} (hbuf : s.buf.wf s.cfg.bufCap = true)
    (hlo : 4 ≤ s.len.toNat) (hhi : s.len.toNat ≤ s.cfg.bufCap) (h : exec (.update sel) s = .next t) :
    t.cfg = s.cfg ∧ t.len = s.len ∧ le32 t.buf t.trailerAt = t.crcResult ∧
      t.coveredCrc (seedOf updateSeed sel s) = t.crcResult := by
  rw [exec_update_of_lengthOk sel hlo hhi] at h
  cases h
  have hp := State.trailerAt_add_four_le hlo hhi
  exact ⟨rfl, rfl, le32_memWrite hbuf hp _, State.coveredCrc_stampTrailer hbuf hp _ _⟩

/-- A state that agrees with what UPDATE left on LEN and BUF[0..L) holds its trailer and has the covered CRC it stored. -/
theorem trailer_and_coveredCrc_after_update {sel : SeedSel} {s t r : State} (hbuf : s.buf.wf s.cfg.bufCap = true)
    (hlo : 4 ≤ s.len.toNat) (hhi : s.len.toNat ≤ s.cfg.bufCap) (ht : exec (.update sel) s = .next t)
    (hcfg : r.cfg = s.cfg) (hlen : r.len = t.len) (hbytes : ∀ a, a < s.len.toNat → r.buf.read a = t.buf.read a) :
    le32 r.buf r.trailerAt = t.crcResult ∧ r.coveredCrc (seedOf updateSeed sel s) = t.crcResult := by
  obtain ⟨hcfgt, hlent, htrailer, hcrc⟩ := exec_update_trailer hbuf hlo hhi ht
  rw [← hlent] at hlo hbytes
  exact ⟨(State.trailer_congr hlen hlo fun a _ ha => hbytes a ha).trans htrailer,
    (State.coveredCrc_congr (hcfg.trans hcfgt.symm) hlen (fun a ha => hbytes a (by omega)) _).trans hcrc⟩

/-- Settles O15: CHECK computes the CRC UPDATE stored, from the same bytes. -/
theorem updateThenCheckMatches : Obligations.UpdateThenCheckMatches := by
  intro selU selC s t r hbuf hlo hhi ht hcfg hlen hbytes hseed
  obtain ⟨htrailer, hcrc⟩ := trailer_and_coveredCrc_after_update hbuf hlo hhi ht hcfg hlen hbytes
  obtain ⟨-, hlent, -⟩ := exec_frame ht
  have hlens : r.len = s.len := hlen.trans hlent
  rw [← htrailer, ← hseed] at hcrc
  rw [← htrailer]
  exact exec_check_matches (by rwa [hlens]) (by rwa [hlens, hcfg]) hcrc

/-- Settles O17: the trailer is the CRC with UPDATE's seed, and no other seed gives the same CRC. -/
theorem anotherSeedIsRejected : Obligations.AnotherSeedIsRejected := by
  intro selU selC s t r hbuf hlo hhi ht hcfg hlen hbytes hseed
  obtain ⟨htrailer, hcrc⟩ := trailer_and_coveredCrc_after_update hbuf hlo hhi ht hcfg hlen hbytes
  obtain ⟨-, hlent, -⟩ := exec_frame ht
  have hlens : r.len = s.len := hlen.trans hlent
  rw [← htrailer] at hcrc
  refine exec_check_mismatches (by rwa [hlens]) (by rwa [hlens, hcfg]) fun heq => ?_
  exact hseed (r.coveredCrc_seed_injective (heq.trans hcrc.symm))

/-- Settles O16: the trailer is the CRC of the data before the flip, and one changed byte changes the CRC. -/
theorem oneFlippedBitIsDetected : Obligations.OneFlippedBitIsDetected := by
  intro selU selC s t r a j hbuf hlo hhi ht hcfg hlen ha hj hbytes hseed
  obtain ⟨hcfgt, hlent, htrailer, hcrc⟩ := exec_update_trailer hbuf hlo hhi ht
  rw [← hlent] at hlo hhi ha hbytes
  have hsame {b : Nat} (hb : b < t.len.toNat) (hne : b ≠ a) : r.buf.read b = t.buf.read b := by
    rw [hbytes b hb, if_neg hne]
  have hflip : r.buf.read a ≠ t.buf.read a := fun heq => by
    rw [hbytes a (by omega), if_pos rfl] at heq
    have hbit := congrArg (BitVec.getLsbD · j) heq
    simp [hj] at hbit
  have hstored := State.trailer_congr hlen hlo fun b hb hb' => hsame hb' (by omega)
  have hchanged := State.coveredCrc_ne_of_one_byte (hcfg.trans hcfgt.symm) hlen ha hflip
    (fun b hb hne => hsame (by omega) hne) (seedOf updateSeed selU s)
  refine exec_check_mismatches (by rwa [hlen]) (by rwa [hlen, hcfg]) ?_
  rwa [hstored, htrailer, hseed, ← hcrc]

/-! ## UPDATE again -/

/-- A word written at the same place of two memories leaves the same bytes there. -/
theorem read_memWrite_eq_inside {cap : Nat} {m m' : Memory} (h : m.wf cap = true) (h' : m'.wf cap = true) {p n : Nat}
    (hn : p + n ≤ cap) (v : Word) {a : Nat} (hlo : p ≤ a) (hhi : a < p + n) :
    (memWrite m p n v).read a = (memWrite m' p n v).read a := by
  obtain ⟨k, rfl⟩ := Nat.exists_eq_add_of_le hlo
  rw [read_memWrite_inside h hn v (by omega), read_memWrite_inside h' hn v (by omega)]

/-- Settles O18: both UPDATEs store the CRC of the same covered bytes, and the trailer stored again is the one there. -/
theorem updateIsIdempotent : Obligations.UpdateIsIdempotent := by
  refine ⟨?_, fun sel s u hu => ?_⟩
  · intro sel sel' s t r hs hr hlo hhi ht hcfg hlen hseed hbytes
    rw [exec_update_of_lengthOk sel hlo hhi] at ht
    cases ht
    have hp := State.trailerAt_add_four_le hlo hhi
    have hat : r.trailerAt = s.trailerAt := by rw [State.trailerAt_eq, State.trailerAt_eq, hlen]
    have hcrc := State.coveredCrc_congr hcfg hlen hbytes (seedOf updateSeed sel s)
    have hu := exec_update_of_lengthOk sel' (s := r) (by rwa [hlen]) (by rwa [hlen, hcfg])
    rw [hseed, hcrc] at hu
    refine ⟨_, hu, rfl, fun a ha => ?_, fun hrt => ?_⟩
    · rw [State.stampTrailer_buf, State.stampTrailer_buf, hat]
      by_cases hb : a < s.trailerAt
      · rw [read_memWrite_outside hr hp _ (.inl hb), read_memWrite_outside hs hp _ (.inl hb), hbytes a hb]
      · exact read_memWrite_eq_inside hr hs hp _ (by omega) (by rw [State.trailerAt_eq]; omega)
    · rw [State.stampTrailer_buf, hat, hrt, State.stampTrailer_buf, memWrite_memWrite hs hp]
  · exact (exec_buf_cases hu).resolve_right fun ⟨_, _, hi, _⟩ => by cases hi

end Sys2Proof.Machine
end

section
/-! PROOFS. The statements of spec/60_exceptions.md: a refused access (R206), a CMD write that races a completion (R207,
R209), and the idle block (R215). -/
namespace Sys2Proof.Machine

/-! ## Refused accesses -/

theorem hostRead_refused {s : State} {off n : Nat} (h : busError s.cfg off n = true) :
    hostRead s off n = s.respond .busError :=
  if_pos h

theorem hostWrite_refused {s : State} {off n : Nat} (v : Word) (h : busError s.cfg off n = true) :
    hostWrite s off n v = s.respond .busError :=
  if_pos h

/-- Settles O36: both answers are `respond`, which adds the answer and changes nothing else. -/
theorem busErrorChangesNothing : Obligations.BusErrorChangesNothing :=
  fun _ _ _ v he => ⟨hostRead_refused he, hostWrite_refused v he⟩

/-! ## Steps with one agent enabled, or none -/

theorem State.contended_of_idle {s : State} (h : s.busy = false) : s.contended = false := by
  simp [State.contended, h]

theorem State.contended_of_no_inputs {s : State} (h : s.inputs = []) : s.contended = false := by
  simp [State.contended, h]

/-- With at most one agent enabled no choice is made, and no entry of the schedule used up. -/
theorem State.takeTurn_of_not_contended {s : State} (h : s.contended = false) : s.takeTurn = s :=
  if_neg (by simp [h])

/-- While idle the host takes the step as soon as an event waits. -/
theorem step_of_idle {s : State} (hidle : s.busy = false) (hin : s.inputs ≠ []) : step s = .next (hostStep s) := by
  have hfree := State.contended_of_idle hidle
  have hturn : s.turn = some .host := by simp [State.turn, hfree, hidle, hin]
  simp only [step, hturn, State.takeTurn_of_not_contended hfree]

/-- While no event waits a command in flight takes the step. -/
theorem step_of_busy {s : State} (hbusy : s.busy = true) (hin : s.inputs = []) : step s = engineStep s := by
  have hfree := State.contended_of_no_inputs hin
  have hturn : s.turn = some .engine := by simp [State.turn, hfree, hbusy]
  rw [step_of_engine_turn hturn, State.takeTurn_of_not_contended hfree]

/-- Settles O8: neither agent is enabled, so nobody has the turn. -/
theorem idleBlockHoldsItsState : Obligations.IdleBlockHoldsItsState := by
  intro s hidle hin
  have hturn : s.turn = none := by simp [State.turn, State.contended_of_idle hidle, hidle, hin]
  simp only [step, hturn]

/-! ## A CMD write and a completion -/

/-- Every engine step completes the command, legal or not, and leaves OVR and the waiting events as they were (R24, R201,
R203). -/
theorem engineStep_completes {s t : State} (h : engineStep s = .next t) :
    t.busy = false ∧ t.pending = none ∧ t.done = true ∧ t.ovr = s.ovr ∧ t.cfg = s.cfg ∧ t.inputs = s.inputs := by
  obtain ⟨w, -, ⟨i, -, hexec⟩ | ⟨-, rfl⟩⟩ := engineStep_cases h
  · obtain ⟨hbusy, hdone, hpending⟩ := exec_completes hexec
    obtain ⟨hcfg, -, -, hovr, hin, -⟩ := exec_frame hexec
    exact ⟨hbusy, hpending, hdone, hovr, hcfg, hin⟩
  · exact ⟨rfl, rfl, rfl, rfl, rfl, rfl⟩

/-- In a state the spec describes a command in flight completes at once while no event waits. -/
theorem State.Inv.step_completes {s : State} (h : s.Inv) (hbusy : s.busy = true) (hin : s.inputs = []) :
    ∃ t, step s = .next t ∧ t.busy = false ∧ t.pending = none ∧ t.done = true ∧ t.ovr = s.ovr := by
  obtain ⟨t, ht⟩ := h.engineStep_next hbusy
  obtain ⟨hidle, hpending, hdone, hovr, -⟩ := engineStep_completes ht
  exact ⟨t, (step_of_busy hbusy hin).trans ht, hidle, hpending, hdone, hovr⟩

/-- The event of the mnemonic CMD is a write to the register CMD (R99). -/
theorem hostStep_cmdWord {s : State} {v : Word} {rest : List Input} (h : s.inputs = cmdWord s.cfg v :: rest) :
    hostStep s = hostWrite { s with inputs := rest } 0x008 4 v := by
  rw [hostStep_access h]
  simp [hostAccess]

/-- R24: a CMD write that meets an idle block is accepted. -/
theorem hostStep_cmdWord_idle {s : State} {v : Word} {rest : List Input} (hidle : s.busy = false)
    (hin : s.inputs = cmdWord s.cfg v :: rest) :
    hostStep s = (State.issue { s with inputs := rest } v).respond .ok := by
  rw [hostStep_cmdWord hin]
  exact idleCmdWriteIsAccepted _ v hidle

/-- R207: a CMD write that meets a command in flight is dropped. -/
theorem hostStep_cmdWord_busy {s : State} {v : Word} {rest : List Input} (hbusy : s.busy = true)
    (hin : s.inputs = cmdWord s.cfg v :: rest) :
    hostStep s = (State.dropWrite { s with inputs := rest }).respond .ok := by
  rw [hostStep_cmdWord hin]
  exact hostWrite_dropped v hbusy (busError_reg s.cfg regAt_cmd) (.inl rfl)

/-- Settles O6: the first agent leaves the second as the only one enabled.  The completion leaves an idle block with the
write waiting, and the dropped write a busy one with nothing waiting. -/
theorem cmdWriteRacesCompletion : Obligations.CmdWriteRacesCompletion := by
  intro s v hinv hbusy hin
  obtain ⟨hengine, hhost⟩ := bothOrdersAreAdmitted s [] hbusy (by simp [hin])
  constructor
  · have hfirst : State.Inv { s with schedule := [] } := hinv.of_block rfl
    obtain ⟨t, ht⟩ := hfirst.engineStep_next hbusy
    obtain ⟨hidle, -, -, hovr, hcfg, hwaits⟩ := engineStep_completes ht
    have hwrite : t.inputs = [cmdWord t.cfg v] := by rw [hwaits, hcfg, hin]
    have haccept := step_of_idle hidle (by simp [hwrite])
    rw [hostStep_cmdWord_idle hidle hwrite] at haccept
    exact ⟨t, _, hengine.trans ht, hidle, haccept, rfl, rfl, rfl, hovr⟩
  · rw [hostStep_cmdWord_busy (s := { s with schedule := [] }) hbusy hin] at hhost
    have hdropped : State.Inv ((State.dropWrite { s with inputs := [], schedule := [] }).respond .ok) :=
      hinv.dropWrite.of_block rfl
    obtain ⟨u, hu, hidle, hpending, hdone, hovr⟩ := hdropped.step_completes hbusy rfl
    exact ⟨_, u, hhost, rfl, rfl, hu, hidle, hpending, hdone, hovr⟩

end Sys2Proof.Machine
end

section
/-! PROOFS. The statements of spec/70_reset_and_hazards.md: the reset values (R231), the reset input (R230, R232, R233),
and progress (R240). -/
namespace Sys2Proof.Machine

/-! ## Reset values -/

/-- Settles O52: the fields are those `resetOf` writes, and the constant registers read as in any idle state. -/
theorem resetValues : Obligations.ResetValues := by
  intro cfg m hcfg
  have hcap := Config.bufCap_le_of_wf hcfg
  refine ⟨rfl, rfl, rfl, rfl, rfl, rfl, ?_, hostRead_idle _ rfl regAt_id fun _ => rfl,
    ⟨BitVec.ofNat 32 cfg.bufCap, hostRead_idle _ rfl regAt_cap fun _ => rfl, ?_⟩,
    hostRead_idle _ rfl regAt_cmd fun _ => rfl⟩
  · simp [State.resetOf, Report.zero]
  · rw [BitVec.toNat_ofNat]
    omega

/-! ## The reset input -/

theorem getD_bytesFrom (m : Memory) {a n k : Nat} (hk : k < n) (d : Byte) :
    (bytesFrom m a n).getD k d = m.read (a + k) := by
  simp [bytesFrom_eq_map_range', hk]

/-- A whole BUF of bytes leaves nothing of what stood there before (R232). -/
theorem overlay_bytesFrom {cap : Nat} {m want : Memory} (hm : m.wf cap = true) (hwant : want.wf cap = true) :
    overlay cap m 0 (bytesFrom want 0 cap) = want := by
  have hwf := wf_overlay hm 0 (bytesFrom want 0 cap)
  refine Memory.wf_ext hwf hwant fun a => ?_
  by_cases ha : a < cap
  · rw [read_overlay hm 0 _ ha, if_pos (Nat.zero_le a), Nat.sub_zero, getD_bytesFrom want ha, Nat.zero_add]
  · rw [Memory.wfFrom_read_above hwf (by omega), Memory.wfFrom_read_above hwant (by omega)]

/-- Settles O53: the event's bytes are laid over BUF, and a whole BUF of them reaches any contents. -/
theorem resetInputAbandonsTheCommand : Obligations.ResetInputAbandonsTheCommand := by
  intro s contents rest hbuf hin
  refine ⟨⟨overlay s.cfg.bufCap s.buf 0 contents, hostStep_reset hin, wf_overlay hbuf 0 contents, fun a ha => ?_⟩,
    fun want hwant => ⟨bytesFrom want 0 s.cfg.bufCap, ?_⟩⟩
  · rw [read_overlay hbuf 0 contents ha, if_pos (Nat.zero_le a), Nat.sub_zero]
    split
    · exact (List.getElem_eq_getD _).symm
    · exact List.getD_eq_default _ _ (by omega)
  · rw [hostStep_reset rfl, State.resetInput_buf]
    exact overlay_bytesFrom hbuf hwant

/-! ## Progress -/

/-- A step that leaves a command in flight was the host's: it used up the first entry of the schedule and brought no new
event (R209). -/
theorem step_stays_busy {s t : State} (hbusy : s.busy = true) (hstep : step s = .next t) (ht : t.busy = true) :
    s.schedule = .host :: t.schedule ∧ t.inputs ⊆ s.inputs := by
  rcases step_cases hstep with ⟨hidle, -⟩ | ⟨-, -, hengine⟩ | ⟨hturn, hin, rfl⟩
  · simp [hidle] at hbusy
  · simp [(engineStep_completes hengine).1] at ht
  · have hboth : s.contended = true := by simp [State.contended, hbusy, hin]
    rw [State.turn_of_contended hboth] at hturn
    constructor
    · rw [schedule_hostStep, State.takeTurn_of_contended hboth]
      cases hsched : s.schedule with
      | nil => simp [hsched] at hturn
      | cons agent order => simpa [hsched] using hturn
    · simpa using inputs_hostStep_subset s.takeTurn

/-- A step from a busy state to an idle one ended the command: it completed, or a reset abandoned it (R30, R233). -/
theorem State.Inv.step_ends_command {s t : State} (hinv : s.Inv) (hbusy : s.busy = true) (hstep : step s = .next t)
    (hidle : t.busy = false) : t.pending = none ∧ ((∀ c, .reset c ∉ s.inputs) → t.done = true) := by
  have htinv := everyStepKeepsTheInvariant s t hinv hstep
  refine ⟨by simpa [hidle] using htinv.pending, fun hno => ?_⟩
  rcases (busyChangesOnlyByCommandOrReset.2.2 s t hstep).2 hbusy hidle with ⟨-, hdone, -⟩ | ⟨c, rest, hin⟩
  · exact hdone
  · exact absurd (by simp [hin]) (hno c)

/-- Settles O7, by induction on the schedule: a step either ends the command or uses up an entry. -/
theorem everyAcceptedCommandCompletes : Obligations.EveryAcceptedCommandCompletes := by
  intro s hinv hbusy
  induction hn : s.schedule.length using Nat.strong_induction_on generalizing s with
  | _ n ih =>
    obtain ⟨t, hstep⟩ := hinv.step_next
    cases ht : t.busy with
    | false =>
      obtain ⟨hpending, hdone⟩ := hinv.step_ends_command hbusy hstep ht
      exact ⟨1, t, by omega, ⟨t, hstep, rfl⟩, ht, hpending, hdone⟩
    | true =>
      obtain ⟨hsched, hwaits⟩ := step_stays_busy hbusy hstep ht
      have hlen : t.schedule.length + 1 = n := by rw [← hn, hsched, List.length_cons]
      obtain ⟨k, u, hk, hsteps, hidle, hpending, hdone⟩ :=
        ih t.schedule.length (by omega) t (everyStepKeepsTheInvariant s t hinv hstep) ht rfl
      exact ⟨k + 1, u, by omega, ⟨t, hstep, hsteps⟩, hidle, hpending, fun hno => hdone fun c hc => hno c (hwaits hc)⟩

end Sys2Proof.Machine
end

section
/-! PROOFS. The CRC values of spec/95_test_vectors.md: V-C0 and rows of V-C3. -/
namespace Sys2Proof.Machine

/-- V-C0: the register after the ASCII digits 1 to 9, before R171's inversion. -/
theorem crcFold_digits :
    crcFold 0xFFFFFFFF#32 [0x31, 0x32, 0x33, 0x34, 0x35, 0x36, 0x37, 0x38, 0x39] =
      0xCBF43926#32 ^^^ 0xFFFFFFFF#32 := by
  decide +kernel

/-- Under PREFIX_BYTE the CRC continues from the register after the seeding step (R171, V-C2). -/
theorem crc32Seeded_prefixByte_of_register {seed : Byte} {c : Word} (h : crcStep 0xFFFFFFFF#32 seed = c)
    (data : List Byte) : crc32Seeded .prefixByte seed data = crcFold c data ^^^ 0xFFFFFFFF#32 := by
  subst h
  rfl

/-- Settles O21: the rows of the default seeds continue from the registers that O20 computes. -/
theorem crcVectorsOfTheSpec : Obligations.CrcVectorsOfTheSpec := by
  obtain ⟨-, hA1, hA2⟩ := seededCrcIsCrcOfSeedThenData
  refine ⟨?digits, ?emptyA1, ?emptyA2, ?oneByteA1, ?oneByteA2, ?emptyZero, ?emptyFF⟩
  case digits => exact congrArg (· ^^^ 0xFFFFFFFF#32) crcFold_digits
  case emptyA1 => exact (crc32Seeded_prefixByte_of_register hA1 []).trans (by decide)
  case emptyA2 => exact (crc32Seeded_prefixByte_of_register hA2 []).trans (by decide)
  case oneByteA1 => exact (crc32Seeded_prefixByte_of_register hA1 [0x31]).trans (by decide)
  case oneByteA2 => exact (crc32Seeded_prefixByte_of_register hA2 [0x31]).trans (by decide)
  case emptyZero => decide
  case emptyFF => decide

end Sys2Proof.Machine
end
